-- ==== Sys2Proof/Config.lean ====
section
/-! DEFINITION. The constants of 00_scope.md rule R6 that the source document gives. The one parameter the
rule leaves OPEN and the block reads, `OUT_RESET`, is a field of the state (`State.outReset`, log 2), so that
every statement over states holds for both its values; `YEAR_W` is OPEN too, and years are natural numbers. -/

namespace Sys2Proof.Config

/-- `N_SLOTS`: length of the telegram buffer, slots 0..182. -/
abbrev nSlots : Nat := 183
/-- `FRAME_LEN`: slots per minute frame, seconds 0..59. -/
abbrev frameLen : Nat := 60
/-- `N_FRAMES`: frames per telegram. -/
abbrev nFrames : Nat := 3
/-- `HDR_LEN`: header slots. -/
abbrev hdrLen : Nat := 2
/-- `TRL_LEN`: trailer slots. -/
abbrev trlLen : Nat := 1
/-- `LAST_SLOT`: the slot whose end clears `active`. -/
abbrev lastSlot : Nat := 182
/-- `SUBTICKS`: ticks per slot. -/
abbrev subTicks : Nat := 10
/-- `SKIP_LIMIT`: a poll with second-of-minute above it is skipped. -/
abbrev skipLimit : Nat := 56
/-- `ANCHOR_SEC`: the alignment delay is `ANCHOR_SEC − second`. -/
abbrev anchorSec : Nat := 58
/-- `ALIGN_TICKS_PER_SEC`: ticks counted per second of alignment delay (D15). -/
abbrev alignTicksPerSec : Nat := 10
/-- `FRAME_BASE(k)`: first slot of frame k, k = 0, 1, 2. -/
def frameBase (k : Nat) : Nat := 2 + 60 * k

end Sys2Proof.Config
end

