-- ==== Sys2Proof/Word.lean ====
section
/-! DEFINITION. The block's data words: pulse codes, levels, the bounded counters, and the byte a dispatch
word is laid out in. -/

namespace Sys2Proof

/-- A byte, the unit in which the model lays out a dispatch word (log 10). -/
abbrev Byte := BitVec 8

/-- The value of one slot (30_encoding.md rule R50). The fourth 2-bit value cannot be written (R62, U1). -/
inductive PulseCode where
  | none   -- no pulse
  | short  -- low for one tick, logical 0
  | long   -- low for two ticks, logical 1
  deriving DecidableEq, Repr

/-- The level of the output line (10_state.md rule R14). -/
inductive Level where
  | low   -- 0, the pulse is present
  | high  -- 1, no pulse
  deriving DecidableEq, Repr

/-- An index of the telegram buffer, `slotIndex` included: 0..182 (10_state.md rule R11, 20_memory.md rule R34). -/
abbrev SlotIndex := Fin 183

/-- The register `subTick`: 0..9 (10_state.md rule R12). The reserved 4-bit values 10..15 cannot be written
(30_encoding.md rule R62, D7; log 5). -/
abbrev SubTick := Fin 10

/-- The register `alignCount`: 0..580 (10_state.md rule R16). -/
abbrev AlignCount := Fin 581

end Sys2Proof
end

