-- ==== Sys2Proof/Syntax.lean ====
section
/-! DEFINITION. The operations of the block as syntax: one constructor of `Instr` per row of
spec/opcode_table.json, and the records that are their operands. -/

namespace Sys2Proof

/-- The snapshot a minute frame is built from (30_encoding.md rule R53). Its fields are natural numbers with
no bound: a value out of its range is what a RangeFault reports (log 16). -/
structure Snapshot where
  year    : Nat
  month   : Nat
  day     : Nat
  hour    : Nat
  minute  : Nat
  weekday : Nat
  isDst   : Bool
  deriving DecidableEq, Repr

/-- The `now` record, the argument of POLL (30_encoding.md rule R53): a snapshot's fields and `second`. -/
structure Now where
  year    : Nat
  month   : Nat
  day     : Nat
  hour    : Nat
  minute  : Nat
  second  : Nat
  weekday : Nat
  isDst   : Bool
  deriving DecidableEq, Repr

/-- The field widths `BCD` is used at (40_bcd_parity.md rule R70): 3, 5, 6, 7, 8. -/
inductive Width where
  | w3 | w5 | w6 | w7 | w8
  deriving DecidableEq, Repr

/-- The operations. Format FN: pure functions; EV: events; TD: the emitter half of a TICK; SQ: its sequencer
half; PD: the operation of a POLL (30_encoding.md section 6). An `x` bit of a row's pattern is an operand. -/
inductive Instr where
  /-- FN `uuuutttt`: `BCD(v, w)` (R70). -/
  | bcd (v : Fin 100) (w : Width)
  /-- FN `p`: `PAR(bits)` (R71). -/
  | par (bits : List Bool)
  /-- FN `mmmmmmm`: `ENC.MIN(minute)` (R72). -/
  | encMin (minute : Nat)
  /-- FN `hhhhhh`: `ENC.HOUR(hour)` (R73). -/
  | encHour (hour : Nat)
  /-- FN `dddddd`: `ENC.DAY(day)` (R74). -/
  | encDay (day : Nat)
  /-- FN `www`: `ENC.WDAY(weekday)` (R75). -/
  | encWday (weekday : Nat)
  /-- FN `nnnnn`: `ENC.MON(month)` (R76). -/
  | encMon (month : Nat)
  /-- FN `yyyyyyyy`: `ENC.YEAR(year)` (R77). -/
  | encYear (year : Nat)
  /-- FN, 60 slots: `FRAME(s)` (R80). -/
  | frame (snap : Snapshot)
  /-- EV `01`: a TICK (R120). -/
  | evTick
  /-- EV `10`: `POLL(now)` (R105). -/
  | evPoll (now : Now)
  /-- EV `11`: RESET (R160). -/
  | reset
  /-- TD `0xxxx` (R121). -/
  | tickIdle (sub : BitVec 4)
  /-- TD `10000` (R122). -/
  | tickS0
  /-- TD `10001` (R123). -/
  | tickS1
  /-- TD `10010` (R124). -/
  | tickS2
  /-- TD `10011`: TICK.NOP, subTick 3 (R125). -/
  | tickNop3
  /-- TD `101xx`: TICK.NOP, subTick 4–7 (R125). -/
  | tickNop4 (x : BitVec 2)
  /-- TD `11000`: TICK.NOP, subTick 8 (R125). -/
  | tickNop8
  /-- TD `11001` (R126). -/
  | tickS9
  /-- TD `1101x`: TICK.RSVD, subTick 10–11, which no state holds (R127). -/
  | tickRsvd10 (x : BitVec 1)
  /-- TD `111xx`: TICK.RSVD, subTick 12–15, which no state holds (R127). -/
  | tickRsvd12 (x : BitVec 2)
  /-- SQ `0x` (R113). -/
  | seqIdle (z : BitVec 1)
  /-- SQ `10` (R111). -/
  | seqCount
  /-- SQ `11` (R112). -/
  | seqStart
  /-- PD `1xx` (R110). -/
  | pollFaulted (bk : BitVec 2)
  /-- PD `01x` (R109). -/
  | pollBusy (k : BitVec 1)
  /-- PD `001` (R108): reads `now.second` only. -/
  | pollSkip (second : Nat)
  /-- PD `000` (R106). -/
  | pollCompose (now : Now)
  deriving DecidableEq, Repr

end Sys2Proof
end

