-- ==== Sys2Proof/WellFormed.lean ====
section
/-! DEFINITION. The checks on an operation as syntax. Two operations carry an operand that their own dispatch
word speaks of: bit k of a PD word is 1 exactly when `now.second > 56` (30_encoding.md rule R60). The other
operands are bounded by their types, and a calendar field has no bound: a value out of its range is a
RangeFault, not an ill-formed operation (60_exceptions.md rule R140). -/

namespace Sys2Proof

/-- The operand agrees with the dispatch word. -/
def Instr.wellFormed : Instr → Bool
  | .bcd _ _ => true
  | .par _ => true
  | .encMin _ => true
  | .encHour _ => true
  | .encDay _ => true
  | .encWday _ => true
  | .encMon _ => true
  | .encYear _ => true
  | .frame _ => true
  | .evTick => true
  | .evPoll _ => true
  | .reset => true
  | .tickIdle _ => true
  | .tickS0 => true
  | .tickS1 => true
  | .tickS2 => true
  | .tickNop3 => true
  | .tickNop4 _ => true
  | .tickNop8 => true
  | .tickS9 => true
  | .tickRsvd10 _ => true
  | .tickRsvd12 _ => true
  | .seqIdle _ => true
  | .seqCount => true
  | .seqStart => true
  | .pollFaulted _ => true
  | .pollBusy _ => true
  | .pollSkip second => decide (second > Config.skipLimit)
  | .pollCompose now => decide (now.second ≤ Config.skipLimit)

end Sys2Proof
end

