-- ==== Sys2Proof/Decode.lean ====
section
/-! DEFINITION. Dispatch words (30_encoding.md section 6) to operations and back.

A dispatch word is 2, 3 or 5 bits and its format is not part of it, so what the decoder reads is a `Code`: the
format, the word in the low bits of one byte, and the operand record ("No packing of the record into a word is
defined: it crosses the boundary as a record", R53). Format FN has no selecting word (section 6): its byte is
the function's number in the order of the opcode table, the model's own (log 10). -/

namespace Sys2Proof

/-- The formats of the dispatch words. -/
inductive Format where
  | fn | ev | td | sq | pd
  deriving DecidableEq, Repr

/-- The operand record that goes with a dispatch word. -/
inductive Arg where
  | none
  | now (n : Now)
  | nat (n : Nat)
  | digits (v : Nat) (w : Nat)
  | bits (b : List Bool)
  | snap (s : Snapshot)
  deriving DecidableEq, Repr

/-- A dispatch word as it is decoded: its format, its byte and its operand record. -/
structure Code where
  format : Format
  byte   : Byte
  arg    : Arg
  deriving DecidableEq, Repr

/-- Why a code is not an operation. -/
inductive Reject where
  /-- The EV word 00: no event is selected (R57). -/
  | noEvent
  /-- A bit above the format's width is set. -/
  | wordTooWide
  /-- The FN number names no function of the table. -/
  | unknownFunction
  /-- The operand record is not of the kind the operation takes. -/
  | operandKind
  /-- `BCD` of a value above 99, a contract violation (R70, U3). -/
  | bcdValueAbove99
  /-- `BCD` at a width that is no field width (R70). -/
  | bcdWidth
  /-- The second contradicts bit k of the PD word (R60). -/
  | secondDisagrees
  deriving DecidableEq, Repr

/-- The number of bits in a format's word. FN has the byte that numbers its functions. -/
def Format.width : Format → Nat
  | .fn => 8
  | .ev => 2
  | .td => 5
  | .sq => 2
  | .pd => 3

/-- The field width as a number of bits. -/
def Width.bits : Width → Nat
  | .w3 => 3
  | .w5 => 5
  | .w6 => 6
  | .w7 => 7
  | .w8 => 8

/-- The field width of a number of bits. -/
def Width.ofBits (n : Nat) : Option Width :=
  if n = 3 then some .w3
  else if n = 5 then some .w5
  else if n = 6 then some .w6
  else if n = 7 then some .w7
  else if n = 8 then some .w8
  else none

/-- Format EV: 00 no event, 01 TICK, 10 POLL, 11 RESET (R57). -/
def decodeEv (b : Byte) (a : Arg) : Except Reject Instr :=
  if b = 0x00 then .error .noEvent
  else if b = 0x01 then
    match a with
    | .none => .ok .evTick
    | _ => .error .operandKind
  else if b = 0x02 then
    match a with
    | .now n => .ok (.evPoll n)
    | _ => .error .operandKind
  else if b = 0x03 then
    match a with
    | .none => .ok .reset
    | _ => .error .operandKind
  else .error .wordTooWide

/-- Format TD, `a ssss` (R58), by the match and mask of the opcode table. -/
def decodeTd (b : Byte) (a : Arg) : Except Reject Instr :=
  if b &&& 0xE0 ≠ 0x00 then .error .wordTooWide
  else
    match a with
    | .none =>
      if b &&& 0x10 = 0x00 then .ok (.tickIdle (b.extractLsb' 0 4))
      else if b &&& 0x1F = 0x10 then .ok .tickS0
      else if b &&& 0x1F = 0x11 then .ok .tickS1
      else if b &&& 0x1F = 0x12 then .ok .tickS2
      else if b &&& 0x1F = 0x13 then .ok .tickNop3
      else if b &&& 0x1C = 0x14 then .ok (.tickNop4 (b.extractLsb' 0 2))
      else if b &&& 0x1F = 0x18 then .ok .tickNop8
      else if b &&& 0x1F = 0x19 then .ok .tickS9
      else if b &&& 0x1E = 0x1A then .ok (.tickRsvd10 (b.extractLsb' 0 1))
      else .ok (.tickRsvd12 (b.extractLsb' 0 2))
    | _ => .error .operandKind

/-- Format SQ, `r z` (R59). -/
def decodeSq (b : Byte) (a : Arg) : Except Reject Instr :=
  if b &&& 0xFC ≠ 0x00 then .error .wordTooWide
  else
    match a with
    | .none =>
      if b &&& 0x02 = 0x00 then .ok (.seqIdle (b.extractLsb' 0 1))
      else if b &&& 0x03 = 0x02 then .ok .seqCount
      else .ok .seqStart
    | _ => .error .operandKind

/-- Format PD, `f b k` (R60). -/
def decodePd (b : Byte) (a : Arg) : Except Reject Instr :=
  if b &&& 0xF8 ≠ 0x00 then .error .wordTooWide
  else if b &&& 0x04 = 0x04 then
    match a with
    | .none => .ok (.pollFaulted (b.extractLsb' 0 2))
    | _ => .error .operandKind
  else if b &&& 0x06 = 0x02 then
    match a with
    | .none => .ok (.pollBusy (b.extractLsb' 0 1))
    | _ => .error .operandKind
  else if b &&& 0x07 = 0x01 then
    match a with
    | .nat n => if n > Config.skipLimit then .ok (.pollSkip n) else .error .secondDisagrees
    | _ => .error .operandKind
  else
    match a with
    | .now n => if n.second > Config.skipLimit then .error .secondDisagrees else .ok (.pollCompose n)
    | _ => .error .operandKind

/-- The operation whose one operand is a natural number. -/
def withNat (a : Arg) (f : Nat → Instr) : Except Reject Instr :=
  match a with
  | .nat n => .ok (f n)
  | _ => .error .operandKind

/-- Format FN: the function by its number in the opcode table's order (log 10). -/
def decodeFn (b : Byte) (a : Arg) : Except Reject Instr :=
  if b = 0 then
    match a with
    | .digits v w =>
      if h : v < 100 then
        match Width.ofBits w with
        | some w => .ok (.bcd ⟨v, h⟩ w)
        | none => .error .bcdWidth
      else .error .bcdValueAbove99
    | _ => .error .operandKind
  else if b = 1 then
    match a with
    | .bits l => .ok (.par l)
    | _ => .error .operandKind
  else if b = 2 then withNat a .encMin
  else if b = 3 then withNat a .encHour
  else if b = 4 then withNat a .encDay
  else if b = 5 then withNat a .encWday
  else if b = 6 then withNat a .encMon
  else if b = 7 then withNat a .encYear
  else if b = 8 then
    match a with
    | .snap s => .ok (.frame s)
    | _ => .error .operandKind
  else .error .unknownFunction

/-- The decoder: total on every format, byte and operand record. -/
def decode (c : Code) : Except Reject Instr :=
  match c.format with
  | .fn => decodeFn c.byte c.arg
  | .ev => decodeEv c.byte c.arg
  | .td => decodeTd c.byte c.arg
  | .sq => decodeSq c.byte c.arg
  | .pd => decodePd c.byte c.arg

/-- The encoder: the dispatch word and operand record of an operation. -/
def encode : Instr → Code
  | .bcd v w => ⟨.fn, 0, .digits v.val w.bits⟩
  | .par bits => ⟨.fn, 1, .bits bits⟩
  | .encMin n => ⟨.fn, 2, .nat n⟩
  | .encHour n => ⟨.fn, 3, .nat n⟩
  | .encDay n => ⟨.fn, 4, .nat n⟩
  | .encWday n => ⟨.fn, 5, .nat n⟩
  | .encMon n => ⟨.fn, 6, .nat n⟩
  | .encYear n => ⟨.fn, 7, .nat n⟩
  | .frame s => ⟨.fn, 8, .snap s⟩
  | .evTick => ⟨.ev, 0b01, .none⟩
  | .evPoll n => ⟨.ev, 0b10, .now n⟩
  | .reset => ⟨.ev, 0b11, .none⟩
  | .tickIdle sub => ⟨.td, sub.zeroExtend 8, .none⟩
  | .tickS0 => ⟨.td, 0b10000, .none⟩
  | .tickS1 => ⟨.td, 0b10001, .none⟩
  | .tickS2 => ⟨.td, 0b10010, .none⟩
  | .tickNop3 => ⟨.td, 0b10011, .none⟩
  | .tickNop4 x => ⟨.td, 0b10100 ||| x.zeroExtend 8, .none⟩
  | .tickNop8 => ⟨.td, 0b11000, .none⟩
  | .tickS9 => ⟨.td, 0b11001, .none⟩
  | .tickRsvd10 x => ⟨.td, 0b11010 ||| x.zeroExtend 8, .none⟩
  | .tickRsvd12 x => ⟨.td, 0b11100 ||| x.zeroExtend 8, .none⟩
  | .seqIdle z => ⟨.sq, z.zeroExtend 8, .none⟩
  | .seqCount => ⟨.sq, 0b10, .none⟩
  | .seqStart => ⟨.sq, 0b11, .none⟩
  | .pollFaulted bk => ⟨.pd, 0b100 ||| bk.zeroExtend 8, .none⟩
  | .pollBusy k => ⟨.pd, 0b010 ||| k.zeroExtend 8, .none⟩
  | .pollSkip n => ⟨.pd, 0b001, .nat n⟩
  | .pollCompose n => ⟨.pd, 0b000, .now n⟩

/-- The operand record of zeros. -/
def Now.zero : Now := ⟨0, 0, 0, 0, 0, 0, 0, false⟩

/-- The format in which a BARE word of the opcode table is read (log 11). The table's words of different
formats share values and carry no format, so a width of 2, 3 or 5 bits decides where it is given, and a whole
byte is read as the event it is (1, 2, 3), else as POLL.FAULTED (4 to 7), else as a tick-dispatch word. -/
def tableFormat (nbits w : Nat) : Format :=
  if nbits = 2 then (if w = 0 then .sq else .ev)
  else if nbits = 3 then .pd
  else if nbits = 5 then .td
  else if w = 1 ∨ w = 2 ∨ w = 3 then .ev
  else if 4 ≤ w ∧ w ≤ 7 then .pd
  else .td

/-- The operand record of zeros for a bare word; a PD word 001 says that the second is above 56, so its
operand is the least such second. -/
def tableArg : Format → Nat → Arg
  | .ev, 2 => .now Now.zero
  | .pd, 0 => .now Now.zero
  | .pd, 1 => .nat 57
  | _, _ => .none

/-- The instruction the decoder reads from a bare word of the opcode table. -/
def decodeTableWord (nbits w : Nat) : Option Instr :=
  if w < 256 then
    match decode ⟨tableFormat nbits w, BitVec.ofNat 8 w, tableArg (tableFormat nbits w) w⟩ with
    | .ok i => some i
    | .error _ => none
  else none

end Sys2Proof
end

