-- ==== Sys2Proof/Machine/State.lean ====
section
/-! DEFINITION. The machine's state (10_state.md), as plain data, the reasons a step can stop, and reset. -/

namespace Sys2Proof.Machine

/-- One written slot of the telegram buffer. The spec's unit of memory is the slot, not the byte
(20_memory.md rules R30, R33), so a cell pairs a slot index with a pulse code (log 15). -/
abbrev Cell := SlotIndex × PulseCode

/-- The telegram buffer `BUF`: the slots that hold a value, indexes strictly rising (`Memory.wf`). An unlisted
slot holds no value (10_state.md rule R10; log 3). -/
abbrev Memory := List Cell

/-- The value of `faultCause` (60_exceptions.md rule R140). The codes 6 and 7 cannot be written (R62). -/
inductive Cause where
  | noCause | minute | hour | day | weekday | month
  deriving DecidableEq, Repr

/-- The status a POLL reports (60_exceptions.md rule R142). -/
inductive Status where
  | ok | skip | busy | fault
  deriving DecidableEq, Repr

/-- The output of the event or function just executed, held until the next one (log 8): a POLL's status, with
the alignment delay in seconds on OK (10_state.md rule R29), or the bits or slots a framer function returns. -/
inductive Reply where
  | silent
  | status (st : Status) (alignmentDelay : Option Nat)
  | bits (b : List Bool)
  | slots (f : List PulseCode)
  deriving DecidableEq, Repr

/-- The events the host raises at one instant (60_exceptions.md rules R144, R147). When a TICK and a POLL are
raised together, `pollFirst` says which is served first: the spec admits both orders (log 13). -/
structure Instant where
  reset     : Bool
  tick      : Bool
  poll      : Option Now
  pollFirst : Bool
  deriving DecidableEq, Repr

/-- All the state the spec gives the block (10_state.md, section 1), and the model's own boundary fields
`pending`, `reply` and `outReset` (INVENTORY.md, State). -/
structure State where
  buf        : Memory
  slotIndex  : SlotIndex
  subTick    : SubTick
  active     : Bool
  out        : Level
  armed      : Bool
  alignCount : AlignCount
  fault      : Bool
  faultCause : Cause
  pending    : List Instant
  reply      : Reply
  outReset   : Level
  deriving DecidableEq, Repr

/-- Why a run stops with a fault. -/
inductive Fault where
  /-- Raised by TICK.S0 and TICK.S1 when the slot they read holds no value (10_state.md rule R10,
  93_implementation_defined.md U4). Safe: unreachable from reset (R25 item e). -/
  | unwrittenSlot (i : SlotIndex)
  deriving DecidableEq, Repr

/-- Why an operation is refused. -/
inductive Refusal where
  /-- Raised by an arm of `exec` whose instruction has no meaning yet; no arm is left so. Safe. -/
  | notModelled (mnemonic : String)
  /-- Raised by TICK.RSVD, whose words name a `subTick` of 10..15, which no state holds (43_emitter.md rule R127,
  U2; log 5). Safe: no event selects it. -/
  | reservedSubTick
  /-- Raised by SEQ.COUNT when `armed = 1` and `alignCount = 0`, "unreachable and given no meaning"
  (42_composer.md rule R111, U2). Safe: unreachable from reset (R25 item d). -/
  | alignCountZero
  /-- Raised by a TD, SQ or PD operation executed in a state whose dispatch word does not select it: the rules
  give it an effect only "Selected when …" (log 7). Safe: a step never executes one so. -/
  | notSelected
  /-- Raised by POLL.COMPOSE if its block write leaves 0..182, where MemWrite is undefined (00_scope.md
  rule R7). Safe: a telegram has exactly 183 slots. -/
  | slotOutOfRange
  /-- Raised by `step` if the code of an event does not decode. Safe: every code the port forms decodes, or is
  "no event". -/
  | undecodable (r : Reject)
  deriving DecidableEq, Repr

/-- The state after RESET for a given `OUT_RESET` (10_state.md rule R26), with nothing pending. -/
def State.resetWith (outReset : Level) : State where
  buf        := []
  slotIndex  := 0
  subTick    := 0
  active     := false
  out        := outReset
  armed      := false
  alignCount := 0
  fault      := false
  faultCause := .noCause
  pending    := []
  reply      := .silent
  outReset   := outReset

/-- The machine right after reset. `OUT_RESET` is OPEN in the spec; here it has the value rule R26 recommends,
low (DESIGN CHOICE, log 2). -/
def State.reset : State := State.resetWith .low

end Sys2Proof.Machine
end

