-- ==== Sys2Proof/Machine/Flags.lean ====
section
/-! DEFINITION. Parity (the one bit the block computes from bits), the modes told apart by the three flags, the
dispatch words formed from the state, and the codes of the enumerations. -/

namespace Sys2Proof.Machine

/-- `PAR(bits)` (40_bcd_parity.md rule R71): the exclusive-or of the bits. -/
def parity (bits : List Bool) : Bool := bits.foldl xor false

/-- The operating modes (60_exceptions.md rule R152). -/
inductive Mode where
  | idle | align | transmit | faulted
  deriving DecidableEq, Repr

/-- The mode of a state; the other combinations of the three bits are unreachable and belong to none. -/
def State.mode (s : State) : Option Mode :=
  match s.fault, s.armed, s.active with
  | false, false, false => some .idle
  | false, true, false => some .align
  | false, false, true => some .transmit
  | true, false, false => some .faulted
  | _, _, _ => none

/-- Bit b of a PD word: a telegram is waiting or being transmitted (30_encoding.md rule R60). -/
def State.busy (s : State) : Bool := s.armed || s.active

/-- Bit z of an SQ word (30_encoding.md rule R59). -/
def State.lastCount (s : State) : Bool := s.alignCount.val == 1

/-- The TD word `a ssss` of a state (30_encoding.md rule R58). -/
def State.tdWord (s : State) : Byte := (BitVec.ofBool s.active ++ BitVec.ofNat 4 s.subTick.val).zeroExtend 8

/-- The SQ word `r z` of a state (30_encoding.md rule R59). -/
def State.sqWord (s : State) : Byte := (BitVec.ofBool s.armed ++ BitVec.ofBool s.lastCount).zeroExtend 8

/-- The PD word `f b k` of a state and a poll's second (30_encoding.md rule R60). -/
def State.pdWord (s : State) (second : Nat) : Byte :=
  (BitVec.ofBool s.fault ++ BitVec.ofBool s.busy
    ++ BitVec.ofBool (decide (second > Config.skipLimit))).zeroExtend 8

/-- The 2-bit number of a pulse code (30_encoding.md rule R50). -/
def pulseNumber : PulseCode → BitVec 2
  | .none => 0
  | .short => 1
  | .long => 2

/-- The letter of a pulse code in slot strings (00_scope.md rules R7, R8). -/
def pulseLetter : PulseCode → Char
  | .none => '-'
  | .short => 'S'
  | .long => 'L'

/-- The value of the output register for a level (00_scope.md rule R7). -/
def levelBit : Level → BitVec 1
  | .low => 0
  | .high => 1

/-- The cause codes (60_exceptions.md rule R140). -/
def causeCode : Cause → BitVec 3
  | .noCause => 0
  | .minute => 1
  | .hour => 2
  | .day => 3
  | .weekday => 4
  | .month => 5

/-- The status codes (60_exceptions.md rule R142). -/
def statusCode : Status → BitVec 2
  | .ok => 0
  | .skip => 1
  | .busy => 2
  | .fault => 3

end Sys2Proof.Machine
end

