-- ==== Sys2Proof/Machine/Operands.lean ====
section
/-! DEFINITION. The data the operations compute: packed BCD and the field encoders (40_bcd_parity.md), the
minute frame (41_minute_frame.md), the calendar helpers and the telegram (42_composer.md). All are pure; an
encoder whose field is out of range answers the cause of the RangeFault. -/

namespace Sys2Proof.Machine

/-- `code(b)` (30_encoding.md rule R51). -/
def codeOfBit (b : Bool) : PulseCode := if b then .long else .short

/-- The packed BCD byte of a value: tens nibble above units nibble (30_encoding.md rule R56). -/
def packedBcd (v : Nat) : BitVec 8 := BitVec.ofNat 4 (v / 10) ++ BitVec.ofNat 4 (v % 10)

/-- `BCD(v, w)` (40_bcd_parity.md rule R70): bits 0..w−1 of the packed byte, bit 0 first. -/
def bcdBits (v : Nat) (w : Width) : List Bool := (List.range w.bits).map (packedBcd v).getLsbD

/-- NormWd (40_bcd_parity.md rule R75): weekday 0 is read as 7. -/
def normWeekday (wd : Nat) : Nat := if wd = 0 then 7 else wd

/-- `ENC.MIN` (R72). -/
def encMin (minute : Nat) : Except Cause (List Bool) :=
  if minute > 59 then .error .minute else .ok (bcdBits minute .w7)

/-- `ENC.HOUR` (R73). -/
def encHour (hour : Nat) : Except Cause (List Bool) :=
  if hour > 23 then .error .hour else .ok (bcdBits hour .w6)

/-- `ENC.DAY` (R74). -/
def encDay (day : Nat) : Except Cause (List Bool) :=
  if day < 1 ∨ day > 31 then .error .day else .ok (bcdBits day .w6)

/-- `ENC.WDAY` (R75). -/
def encWday (weekday : Nat) : Except Cause (List Bool) :=
  if weekday > 7 then .error .weekday else .ok (bcdBits (normWeekday weekday) .w3)

/-- `ENC.MON` (R76). -/
def encMon (month : Nat) : Except Cause (List Bool) :=
  if month < 1 ∨ month > 12 then .error .month else .ok (bcdBits month .w5)

/-- `ENC.YEAR` (R77). -/
def encYear (year : Nat) : List Bool := bcdBits (year % 100) .w8

/-- The 59 data bits of a frame from its encoded fields, slots 0..58 (41_minute_frame.md rule R80). -/
def frameBits (isDst : Bool) (m h d w n y : List Bool) : List Bool :=
  let date := d ++ w ++ n ++ y
  List.replicate 17 false ++ [isDst, !isDst, false, true]
    ++ m ++ [parity m]
    ++ h ++ [parity h]
    ++ date ++ [parity date]

/-- `FRAME(s)` (41_minute_frame.md rule R80); the fields are checked in the order of rule R89. -/
def frame (s : Snapshot) : Except Cause (List PulseCode) := do
  let m ← encMin s.minute
  let h ← encHour s.hour
  let d ← encDay s.day
  let w ← encWday s.weekday
  let n ← encMon s.month
  return (frameBits s.isDst m h d w n (encYear s.year)).map codeOfBit ++ [.none]

/-- `SNAP(now)` (42_composer.md rule R100). -/
def snapOf (now : Now) : Snapshot :=
  ⟨now.year, now.month, now.day, now.hour, now.minute, now.weekday, now.isDst⟩

/-- `LEAP(y)` (42_composer.md rule R101). -/
def isLeap (y : Nat) : Bool := (y % 4 == 0 && y % 100 != 0) || y % 400 == 0

/-- `DIM(mo, y)` (42_composer.md rule R101). The rule names the months 1 to 12; `advMin` asks for no other once
its snapshot has passed `frame`. -/
def daysInMonth (mo y : Nat) : Nat :=
  if mo = 2 then (if isLeap y then 29 else 28)
  else if mo = 4 ∨ mo = 6 ∨ mo = 9 ∨ mo = 11 then 30
  else 31

/-- `ADVMIN(s)`: the snapshot one calendar minute later (42_composer.md rules R102 to R104). -/
def advMin (s : Snapshot) : Snapshot :=
  let s := { s with weekday := normWeekday s.weekday }
  if s.minute + 1 > 59 then
    if s.hour + 1 > 23 then
      let wd := s.weekday % 7 + 1
      if s.day + 1 > daysInMonth s.month s.year then
        if s.month + 1 > 12 then
          { s with minute := 0, hour := 0, weekday := wd, day := 1, month := 1, year := s.year + 1 }
        else { s with minute := 0, hour := 0, weekday := wd, day := 1, month := s.month + 1 }
      else { s with minute := 0, hour := 0, weekday := wd, day := s.day + 1 }
    else { s with minute := 0, hour := s.hour + 1 }
  else { s with minute := s.minute + 1 }

/-- The 183 slots of a telegram (42_composer.md rule R106, 30_encoding.md rule R55). -/
def telegram (s0 : Snapshot) : Except Cause (List PulseCode) := do
  let f0 ← frame s0
  let f1 ← frame (advMin s0)
  let f2 ← frame (advMin (advMin s0))
  return [.short, .none] ++ f0 ++ f1 ++ f2 ++ [.short]

/-- `alignmentDelay` in seconds (42_composer.md rule R107). -/
def alignmentDelay (second : Nat) : Nat := Config.anchorSec - second

/-- The count POLL.COMPOSE loads: ten ticks per second of delay (42_composer.md rule R106). -/
def alignTicks (second : Nat) : AlignCount :=
  ⟨Config.alignTicksPerSec * alignmentDelay second, by show 10 * (58 - second) < 581; omega⟩

/-- The weights of a field's bits, first bit first (30_encoding.md rule R54). -/
def bcdWeights : List Nat := [1, 2, 4, 8, 10, 20, 40, 80]

/-- `dec(b)` (40_bcd_parity.md rule R79): the value a field's bits stand for. -/
def decodeBcd (bits : List Bool) : Nat :=
  (List.zipWith (fun b weight => if b then weight else 0) bits bcdWeights).sum

end Sys2Proof.Machine
end

