-- ==== Sys2Proof/Machine/Ops.lean ====
section
/-! DEFINITION. The operations the meanings share: the telegram buffer, results, raising a RangeFault, the
event port, and the signals the host can see. -/

namespace Sys2Proof.Machine

/-- What executing an operation answers. -/
abbrev Result := Host.Outcome State Fault Refusal

/-! ### The telegram buffer (20_memory.md) -/

/-- The buffer's canonical form: indexes strictly rising. -/
def Memory.wf : Memory → Bool
  | [] => true
  | [_] => true
  | a :: b :: rest => decide (a.1 < b.1) && Memory.wf (b :: rest)

/-- The value of one slot, if it holds one; reading has no side effect (20_memory.md rule R36). -/
def Memory.read : Memory → SlotIndex → Option PulseCode
  | [], _ => none
  | (j, c) :: rest, i => if i = j then some c else Memory.read rest i

/-- Write one slot, keeping the indexes rising. -/
def Memory.write : Memory → SlotIndex → PulseCode → Memory
  | [], i, c => [(i, c)]
  | (j, d) :: rest, i, c =>
    if i < j then (i, c) :: (j, d) :: rest
    else if i = j then (i, c) :: rest
    else (j, d) :: Memory.write rest i c

/-- `MemRead(i, n)` (00_scope.md rule R7): the n codes from slot i up; no answer outside the bound or where a
slot holds no value. -/
def memRead (m : Memory) (i : Nat) : Nat → Option (List PulseCode)
  | 0 => if i ≤ Config.nSlots then some [] else none
  | n + 1 =>
    if h : i < 183 then
      match m.read ⟨i, h⟩, memRead m (i + 1) n with
      | some c, some cs => some (c :: cs)
      | _, _ => none
    else none

/-- `MemWrite(i, n, v)` with n the length of v (00_scope.md rule R7); no answer outside the bound. -/
def memWrite (m : Memory) (i : Nat) : List PulseCode → Option Memory
  | [] => if i ≤ Config.nSlots then some m else none
  | c :: cs =>
    if h : i < 183 then
      match memWrite m (i + 1) cs with
      | some m' => some (m'.write ⟨i, h⟩ c)
      | none => none
    else none

/-- `code = MemRead(slotIndex, 1)[0]`, the code of the slot being transmitted (43_emitter.md). -/
def State.slotCode (s : State) : Option PulseCode :=
  match memRead s.buf s.slotIndex.val 1 with
  | some (c :: _) => some c
  | _ => none

/-! ### Results -/

/-- Run `g` on the state `r` answers; a stop stays a stop. -/
def andThen (r : Result) (g : State → Result) : Result :=
  match r with
  | .next s => g s
  | .fault f => .fault f
  | .refused e => .refused e

/-- The state with no output from the event being executed. -/
def State.silence (s : State) : State := { s with reply := .silent }

/-- A dispatched operation has its effect in the states that select it and no other (log 7). -/
def whenSelected (selected : Bool) (r : Result) : Result :=
  if selected then r else .refused .notSelected

/-- Run an operation that reads the code of the slot being transmitted. -/
def withSlotCode (s : State) (f : PulseCode → State) : Result :=
  match s.slotCode with
  | some code => .next (f code)
  | none => .fault (.unwrittenSlot s.slotIndex)

/-- `raise RangeFault(cause)` (60_exceptions.md rule R141): nothing the operation would have written is written,
`fault <- 1`, `faultCause <- cause`. There is no handler, vector or saved state, and no return: the fault is left
by RESET alone (R148). `reply` is what the event reports. -/
def raiseRangeFault (cause : Cause) (reply : Reply) (s : State) : Result :=
  .next { s with fault := true, faultCause := cause, reply := reply }

/-- A framer function executed on its own: it returns its value, or raises and returns nothing (log 9). -/
def returnBits (r : Except Cause (List Bool)) (s : State) : Result :=
  match r with
  | .ok b => .next { s with reply := .bits b }
  | .error cause => raiseRangeFault cause .silent s

/-- A POLL that only reports a status (60_exceptions.md rule R142). -/
def reportStatus (st : Status) (s : State) : Result := .next { s with reply := .status st none }

/-! ### The event port (10_state.md rules R27, R28; 60_exceptions.md rules R144, R147) -/

/-- One event alone at an instant. -/
def Instant.ofReset : Instant := ⟨true, false, none, false⟩
/-- One event alone at an instant. -/
def Instant.ofTick : Instant := ⟨false, true, none, false⟩
/-- One event alone at an instant. -/
def Instant.ofPoll (now : Now) : Instant := ⟨false, false, some now, false⟩

/-- The event an instant delivers first, as its EV code, and what is left of the instant after it. RESET wins
over the others and they are dropped (60_exceptions.md rule R147). -/
def Instant.take (x : Instant) : Code × Option Instant :=
  if x.reset then (⟨.ev, 0b11, .none⟩, none)
  else
    match x.tick, x.poll with
    | true, some now =>
      if x.pollFirst then (⟨.ev, 0b10, .now now⟩, some { x with poll := none })
      else (⟨.ev, 0b01, .none⟩, some { x with tick := false })
    | true, none => (⟨.ev, 0b01, .none⟩, none)
    | false, some now => (⟨.ev, 0b10, .now now⟩, none)
    | false, none => (⟨.ev, 0b00, .none⟩, none)

/-- The next event's code and the state once it is taken from the port; nothing when nothing is pending. -/
def State.fetch (s : State) : Option (Code × State) :=
  match s.pending with
  | [] => none
  | x :: rest => some (x.take.1, { s with pending := x.take.2.toList ++ rest })

/-! ### What the host sees (10_state.md rules R22, R29) -/

/-- The block's output signals as bits. -/
structure Signals where
  out            : BitVec 1
  active         : BitVec 1
  fault          : BitVec 1
  faultCause     : BitVec 3
  status         : Option (BitVec 2)
  alignmentDelay : Option Nat
  deriving DecidableEq, Repr

/-- The status of the POLL just served, if the last event was one. -/
def State.status (s : State) : Option Status :=
  match s.reply with
  | .status st _ => some st
  | _ => none

/-- The alignment delay reported by the POLL just served. -/
def State.delay (s : State) : Option Nat :=
  match s.reply with
  | .status _ d => d
  | _ => none

/-- The signals of a state. -/
def State.signals (s : State) : Signals where
  out            := levelBit s.out
  active         := BitVec.ofBool s.active
  fault          := BitVec.ofBool s.fault
  faultCause     := causeCode s.faultCause
  status         := s.status.map statusCode
  alignmentDelay := s.delay

end Sys2Proof.Machine
end

