-- ==== Sys2Proof/Machine/Emitter.lean ====
section
/-! DEFINITION. Format TD: the emitter half of a TICK, case by case (43_emitter.md rules R121 to R127). -/

namespace Sys2Proof.Machine

/-- The emitter is at this step of its slot. -/
def State.atSubTick (s : State) (t : Nat) : Bool := s.active && s.subTick.val == t

/-- `TICK.IDLE` (R121): no register changes. -/
def execTickIdle (sub : BitVec 4) (s : State) : Result :=
  whenSelected (!s.active && s.subTick.val == sub.toNat) (.next s.silence)

/-- `TICK.S0` (R122): the pulse starts, unless the slot is `None`. -/
def execTickS0 (s : State) : Result :=
  whenSelected (s.atSubTick 0) <| withSlotCode s fun code =>
    { s with out := if code = .none then s.out else .low, subTick := 1, reply := .silent }

/-- `TICK.S1` (R123): a `Short` pulse ends. -/
def execTickS1 (s : State) : Result :=
  whenSelected (s.atSubTick 1) <| withSlotCode s fun code =>
    { s with out := if code = .short then .high else s.out, subTick := 2, reply := .silent }

/-- `TICK.S2` (R124): the line goes high whatever the slot. -/
def execTickS2 (s : State) : Result :=
  whenSelected (s.atSubTick 2) (.next { s with out := .high, subTick := 3, reply := .silent })

/-- The effect of TICK.NOP (R125): `subTick <- subTick + 1`, from 3..8, where the sum does not wrap. -/
def nextSubTick (s : State) : Result := .next { s with subTick := s.subTick + 1, reply := .silent }

/-- `TICK.NOP` at subTick 3 (R125). -/
def execTickNop3 (s : State) : Result := whenSelected (s.atSubTick 3) (nextSubTick s)

/-- `TICK.NOP` at subTick 4..7 (R125). -/
def execTickNop4 (x : BitVec 2) (s : State) : Result :=
  whenSelected (s.atSubTick (4 + x.toNat)) (nextSubTick s)

/-- `TICK.NOP` at subTick 8 (R125). -/
def execTickNop8 (s : State) : Result := whenSelected (s.atSubTick 8) (nextSubTick s)

/-- The slot after slot i, for i below 182. -/
def nextSlot (i : SlotIndex) : SlotIndex := if h : i.val + 1 < 183 then ⟨i.val + 1, h⟩ else 0

/-- `TICK.S9` (R126): the next slot, or the end of the transmission. -/
def execTickS9 (s : State) : Result :=
  whenSelected (s.atSubTick 9) <| .next <|
    if s.slotIndex.val = Config.lastSlot then { s with active := false, slotIndex := 0, subTick := 0, reply := .silent }
    else { s with slotIndex := nextSlot s.slotIndex, subTick := 0, reply := .silent }

/-- `TICK.RSVD` for subTick 10..11: refused, as no state holds one (R127, U2; log 5). -/
def execTickRsvd10 (_x : BitVec 1) (_s : State) : Result := .refused .reservedSubTick

/-- `TICK.RSVD` for subTick 12..15: refused, as no state holds one (R127, U2; log 5). -/
def execTickRsvd12 (_x : BitVec 2) (_s : State) : Result := .refused .reservedSubTick

end Sys2Proof.Machine
end

