-- ==== Sys2Proof/Machine/Poll.lean ====
section
/-! DEFINITION. Format PD: the operation of a POLL (42_composer.md rules R106 to R110). -/

namespace Sys2Proof.Machine

/-- Nothing latched, nothing waiting, nothing being transmitted. -/
def State.isIdle (s : State) : Bool := !s.fault && !s.busy

/-- `POLL.FAULTED` (R110): status FAULT, no state changes. -/
def execPollFaulted (bk : BitVec 2) (s : State) : Result :=
  whenSelected (s.fault && BitVec.ofBool s.busy == bk.extractLsb' 1 1) (reportStatus .fault s)

/-- `POLL.BUSY` (R109): status BUSY, no state changes, `now` not read. -/
def execPollBusy (_k : BitVec 1) (s : State) : Result :=
  whenSelected (!s.fault && s.busy) (reportStatus .busy s)

/-- `POLL.SKIP` (R108): status SKIP, no state changes. -/
def execPollSkip (second : Nat) (s : State) : Result :=
  whenSelected (s.isIdle && decide (second > Config.skipLimit)) (reportStatus .skip s)

/-- Store a telegram and start the alignment wait (R106). -/
def storeTelegram (slots : List PulseCode) (second : Nat) (s : State) : Result :=
  match memWrite s.buf 0 slots with
  | some buf =>
    .next { s with buf := buf, alignCount := alignTicks second, armed := true,
                   reply := .status .ok (some (alignmentDelay second)) }
  | none => .refused .slotOutOfRange

/-- `POLL.COMPOSE` (R106): compose the telegram and store it, or take the RangeFault with nothing written. -/
def execPollCompose (now : Now) (s : State) : Result :=
  whenSelected (s.isIdle && decide (now.second ≤ Config.skipLimit)) <|
    match telegram (snapOf now) with
    | .ok slots => storeTelegram slots now.second s
    | .error cause => raiseRangeFault cause (.status .fault none) s

end Sys2Proof.Machine
end

