-- ==== Sys2Proof/Machine/Sequencer.lean ====
section
/-! DEFINITION. Format SQ: the sequencer half of a TICK (42_composer.md rules R111 to R113). -/

namespace Sys2Proof.Machine

/-- The alignment count less one. -/
def countDown (n : AlignCount) : AlignCount := ⟨n.val - 1, by omega⟩

/-- `SEQ.IDLE` (R113): no state changes. -/
def execSeqIdle (z : BitVec 1) (s : State) : Result :=
  whenSelected (!s.armed && BitVec.ofBool s.lastCount == z) (.next s.silence)

/-- `SEQ.COUNT` (R111); `alignCount = 0` with `armed = 1` is given no meaning. -/
def execSeqCount (s : State) : Result :=
  whenSelected (s.armed && !s.lastCount) <|
    if s.alignCount.val = 0 then .refused .alignCountZero
    else .next { s with alignCount := countDown s.alignCount, reply := .silent }

/-- `SEQ.START` (R112): the buffer is handed to the emitter. -/
def execSeqStart (s : State) : Result :=
  whenSelected (s.armed && s.lastCount) <|
    .next { s with alignCount := 0, armed := false, active := true, reply := .silent }

end Sys2Proof.Machine
end

