-- ==== Sys2Proof/Machine/Events.lean ====
section
/-! DEFINITION. Format EV: the three events (43_emitter.md rule R120, 42_composer.md rule R105,
70_reset_and_hazards.md rule R160). Each selects its operations from the state directly, as 30_encoding.md
rule R57 allows; that the dispatch words select the same is an obligation. -/

namespace Sys2Proof.Machine

/-- The emitter half of a TICK, chosen by `active` and `subTick` (R120, R58). No state
selects TICK.RSVD (log 5). -/
def emitterHalf (s : State) : Result :=
  if s.active then
    match s.subTick.val with
    | 0 => execTickS0 s
    | 1 => execTickS1 s
    | 2 => execTickS2 s
    | 3 => execTickNop3 s
    | 4 => execTickNop4 0 s
    | 5 => execTickNop4 1 s
    | 6 => execTickNop4 2 s
    | 7 => execTickNop4 3 s
    | 8 => execTickNop8 s
    | _ => execTickS9 s
  else execTickIdle (BitVec.ofNat 4 s.subTick.val) s

/-- The sequencer half of a TICK, chosen by `armed` and `alignCount` (R120, R59). -/
def sequencerHalf (s : State) : Result :=
  if s.armed then
    if s.lastCount then execSeqStart s else execSeqCount s
  else execSeqIdle (BitVec.ofBool s.lastCount) s

/-- `EV.TICK` (R120): the emitter half, then the sequencer half. The emitter half writes neither `armed` nor
`alignCount`, so the second half is chosen by their values at the start of the event. -/
def execEvTick (s : State) : Result := andThen (emitterHalf s) sequencerHalf

/-- `EV.POLL` (R105): the tests in the order fault, busy, skip. -/
def execEvPoll (now : Now) (s : State) : Result :=
  if s.fault then
    execPollFaulted (BitVec.ofBool s.busy ++ BitVec.ofBool (decide (now.second > Config.skipLimit))) s
  else if s.busy then execPollBusy (BitVec.ofBool (decide (now.second > Config.skipLimit))) s
  else if now.second > Config.skipLimit then execPollSkip now.second s
  else execPollCompose now s

/-- `RESET` (R160). The events the host has still to deliver stay in the port (log 13). -/
def execReset (s : State) : Result := .next { State.resetWith s.outReset with pending := s.pending }

end Sys2Proof.Machine
end

