-- ==== Sys2Proof/Machine/Framer.lean ====
section
/-! DEFINITION. Format FN: the framer's pure functions executed as operations of their own (log 9). They return
a value and write no register; an encoder whose operand is out of range raises RangeFault
(40_bcd_parity.md, 41_minute_frame.md). -/

namespace Sys2Proof.Machine

/-- `BCD` (R70). -/
def execBcd (v : Fin 100) (w : Width) (s : State) : Result := returnBits (.ok (bcdBits v.val w)) s

/-- `PAR` (R71). -/
def execPar (bits : List Bool) (s : State) : Result := returnBits (.ok [parity bits]) s

/-- `ENC.MIN` (R72). -/
def execEncMin (minute : Nat) (s : State) : Result := returnBits (encMin minute) s

/-- `ENC.HOUR` (R73). -/
def execEncHour (hour : Nat) (s : State) : Result := returnBits (encHour hour) s

/-- `ENC.DAY` (R74). -/
def execEncDay (day : Nat) (s : State) : Result := returnBits (encDay day) s

/-- `ENC.WDAY` (R75). -/
def execEncWday (weekday : Nat) (s : State) : Result := returnBits (encWday weekday) s

/-- `ENC.MON` (R76). -/
def execEncMon (month : Nat) (s : State) : Result := returnBits (encMon month) s

/-- `ENC.YEAR` (R77). -/
def execEncYear (year : Nat) (s : State) : Result := returnBits (.ok (encYear year)) s

/-- `FRAME` (R80). -/
def execFrame (snap : Snapshot) (s : State) : Result :=
  match frame snap with
  | .ok f => .next { s with reply := .slots f }
  | .error cause => raiseRangeFault cause .silent s

end Sys2Proof.Machine
end

