-- ==== Sys2Proof/Machine/Dispatch.lean ====
section
/-! DEFINITION. The dispatch of every operation to its meaning. -/

namespace Sys2Proof.Machine

/-- Execute one operation. -/
def exec (i : Instr) (s : State) : Host.Outcome State Fault Refusal :=
  match i with
  | .bcd v w => Sys2Proof.Machine.execBcd v w s
  | .par bits => Sys2Proof.Machine.execPar bits s
  | .encMin minute => Sys2Proof.Machine.execEncMin minute s
  | .encHour hour => Sys2Proof.Machine.execEncHour hour s
  | .encDay day => Sys2Proof.Machine.execEncDay day s
  | .encWday weekday => Sys2Proof.Machine.execEncWday weekday s
  | .encMon month => Sys2Proof.Machine.execEncMon month s
  | .encYear year => Sys2Proof.Machine.execEncYear year s
  | .frame snap => Sys2Proof.Machine.execFrame snap s
  | .evTick => Sys2Proof.Machine.execEvTick s
  | .evPoll now => Sys2Proof.Machine.execEvPoll now s
  | .reset => Sys2Proof.Machine.execReset s
  | .tickIdle sub => Sys2Proof.Machine.execTickIdle sub s
  | .tickS0 => Sys2Proof.Machine.execTickS0 s
  | .tickS1 => Sys2Proof.Machine.execTickS1 s
  | .tickS2 => Sys2Proof.Machine.execTickS2 s
  | .tickNop3 => Sys2Proof.Machine.execTickNop3 s
  | .tickNop4 x => Sys2Proof.Machine.execTickNop4 x s
  | .tickNop8 => Sys2Proof.Machine.execTickNop8 s
  | .tickS9 => Sys2Proof.Machine.execTickS9 s
  | .tickRsvd10 x => Sys2Proof.Machine.execTickRsvd10 x s
  | .tickRsvd12 x => Sys2Proof.Machine.execTickRsvd12 x s
  | .seqIdle z => Sys2Proof.Machine.execSeqIdle z s
  | .seqCount => Sys2Proof.Machine.execSeqCount s
  | .seqStart => Sys2Proof.Machine.execSeqStart s
  | .pollFaulted bk => Sys2Proof.Machine.execPollFaulted bk s
  | .pollBusy k => Sys2Proof.Machine.execPollBusy k s
  | .pollSkip second => Sys2Proof.Machine.execPollSkip second s
  | .pollCompose now => Sys2Proof.Machine.execPollCompose now s

end Sys2Proof.Machine
end

