-- ==== Sys2Proof/Machine/Select.lean ====
section
/-! DEFINITION. Setting a state up so that the next step executes a given operation (log 12). No operation is
fetched from a program: an event at the boundary and the state's own bits select it (00_scope.md, section 1), so
selecting one means raising its event and setting the bits its dispatch word is made of. -/

namespace Sys2Proof.Machine

/-- The event is the next one the step serves. -/
def State.raiseNext (s : State) (x : Instant) : State := { s with pending := x :: s.pending }

/-- The `subTick` that the low four bits of a TD word name, if it is not reserved. -/
def subTickOfBits (b : BitVec 4) : Option SubTick := if h : b.toNat < 10 then some ⟨b.toNat, h⟩ else none

/-- A TICK whose emitter half is the one at subTick t, and whose sequencer half has nothing to do. A slot that
holds no value gets `Short`, as the ticks at 0 and 1 read it. -/
def State.selectTick (s : State) (t : SubTick) : State :=
  { s with active := true, armed := false, subTick := t,
           buf := if (s.buf.read s.slotIndex).isSome then s.buf else s.buf.write s.slotIndex .short }.raiseNext
    Instant.ofTick

/-- A TICK whose sequencer half finds these values, and whose emitter half has nothing to do. -/
def State.selectSeq (s : State) (armed : Bool) (count : AlignCount) : State :=
  { s with active := false, armed := armed, alignCount := count }.raiseNext Instant.ofTick

/-- A POLL that finds these flags. -/
def State.selectPoll (s : State) (fault armed : Bool) (now : Now) : State :=
  { s with fault := fault, armed := armed, active := false }.raiseNext (Instant.ofPoll now)

/-- The record of zeros with this second. -/
def nowAtSecond (second : Nat) : Now := { Now.zero with second := second }

/-- A poll at second 0 whose frame N has this snapshot. -/
def nowOfSnapshot (p : Snapshot) : Now :=
  ⟨p.year, p.month, p.day, p.hour, p.minute, 0, p.weekday, p.isDst⟩

/-- A second whose bit k of the PD word is this (30_encoding.md rule R60). -/
def secondOfBit (k : BitVec 1) : Nat := if k = 1 then 57 else 0

/-- The count with bit z of the SQ word as given (30_encoding.md rule R59), the state's own where it agrees. -/
def countOfBit (z : BitVec 1) (count : AlignCount) : AlignCount :=
  if z = 1 then 1 else if count.val = 1 then 0 else count

/-- The snapshot with 1 January 2000, 00:00, a Saturday, for selecting a framer function. -/
def sampleSnapshot : Snapshot := ⟨2000, 1, 1, 0, 0, 6, false⟩

/-- Set the state up so that the next step executes this operation. The framer's functions are "not selected by
an event: POLL.COMPOSE invokes them" (30_encoding.md section 6), so for them it is a POLL that invokes them.
A TD word that names a reserved `subTick` is selected by no state (log 12). -/
def State.select (s : State) : Instr → State
  | .bcd _ _ => s.selectPoll false false (nowOfSnapshot sampleSnapshot)
  | .par _ => s.selectPoll false false (nowOfSnapshot sampleSnapshot)
  | .encMin n => s.selectPoll false false (nowOfSnapshot { sampleSnapshot with minute := n })
  | .encHour n => s.selectPoll false false (nowOfSnapshot { sampleSnapshot with hour := n })
  | .encDay n => s.selectPoll false false (nowOfSnapshot { sampleSnapshot with day := n })
  | .encWday n => s.selectPoll false false (nowOfSnapshot { sampleSnapshot with weekday := n })
  | .encMon n => s.selectPoll false false (nowOfSnapshot { sampleSnapshot with month := n })
  | .encYear n => s.selectPoll false false (nowOfSnapshot { sampleSnapshot with year := n })
  | .frame p => s.selectPoll false false (nowOfSnapshot p)
  | .evTick => s.raiseNext Instant.ofTick
  | .evPoll now => s.raiseNext (Instant.ofPoll now)
  | .reset => s.raiseNext Instant.ofReset
  | .tickIdle sub =>
    { s with active := false, armed := false, subTick := (subTickOfBits sub).getD s.subTick }.raiseNext Instant.ofTick
  | .tickS0 => s.selectTick 0
  | .tickS1 => s.selectTick 1
  | .tickS2 => s.selectTick 2
  | .tickNop3 => s.selectTick 3
  | .tickNop4 x => s.selectTick ⟨4 + x.toNat, by omega⟩
  | .tickNop8 => s.selectTick 8
  | .tickS9 => s.selectTick 9
  | .tickRsvd10 _ => s
  | .tickRsvd12 _ => s
  | .seqIdle z => s.selectSeq false (countOfBit z s.alignCount)
  | .seqCount => s.selectSeq true (if s.alignCount.val ≤ 1 then 2 else s.alignCount)
  | .seqStart => s.selectSeq true 1
  | .pollFaulted bk => s.selectPoll true (bk.getLsbD 1) (nowAtSecond (secondOfBit (bk.extractLsb' 0 1)))
  | .pollBusy k => s.selectPoll false true (nowAtSecond (secondOfBit k))
  | .pollSkip second => s.selectPoll false false (nowAtSecond second)
  | .pollCompose now => s.selectPoll false false now

end Sys2Proof.Machine
end

