-- ==== Sys2Proof/Machine/Step.lean ====
section
/-! DEFINITION. One step: serve the next event the host has raised (60_exceptions.md rule R147: "Each event is
one atomic step"). -/

namespace Sys2Proof.Machine

/-- Take the next event from the port, decode it and execute it. With nothing raised, or at an instant with no
event (EV word 00), no operation runs and only the last reply is dropped (30_encoding.md rule R57; log 18). -/
def step (s : State) : Host.Outcome State Fault Refusal :=
  match s.fetch with
  | none => .next s.silence
  | some (code, s') =>
    match decode code with
    | .ok i => exec i s'
    | .error .noEvent => .next s'.silence
    | .error r => .refused (.undecodable r)

/-- The state whose next step executes the instruction a bare opcode-table word stands for (logs 11, 12). -/
def State.withFetchWord (s : State) (nbits w : Nat) : State :=
  match decodeTableWord nbits w with
  | some i => s.select i
  | none => s

end Sys2Proof.Machine
end

