-- ==== Sys2Proof/Machine/Trace.lean ====
section
/-! DEFINITION. Traces of events (00_scope.md rule R8, 30_encoding.md rule R66) with their pseudo-events, and runs
of consecutive TICKs. -/

namespace Sys2Proof.Machine

/-- One line of a trace. -/
inductive TraceItem where
  | reset
  | poll (now : Now)
  | tick
  | ticks (n : Nat)   -- TICK*n
  | slot              -- TICK*10
  | telegram          -- TICK*1830
  | align (d : Nat)   -- ALIGN d, TICK*(10*d)
  deriving DecidableEq, Repr

/-- The events a line of a trace stands for. -/
def expandItem : TraceItem → List Instant
  | .reset => [Instant.ofReset]
  | .poll now => [Instant.ofPoll now]
  | .tick => [Instant.ofTick]
  | .ticks n => List.replicate n Instant.ofTick
  | .slot => List.replicate 10 Instant.ofTick
  | .telegram => List.replicate 1830 Instant.ofTick
  | .align d => List.replicate (10 * d) Instant.ofTick

/-- The host delivers a trace after what it has already raised. -/
def State.raise (s : State) (trace : List TraceItem) : State :=
  { s with pending := s.pending ++ trace.flatMap expandItem }

/-- n consecutive TICKs, stopping at the first stop. -/
def ticks : Nat → State → Result
  | 0, s => .next s
  | n + 1, s => andThen (exec .evTick s) (ticks n)

/-- The level string of n consecutive TICKs: `out` after each one (00_scope.md rule R8). -/
def levels : Nat → State → List Level
  | 0, _ => []
  | n + 1, s =>
    match exec .evTick s with
    | .next t => t.out :: levels n t
    | _ => []

end Sys2Proof.Machine
end

