-- ==== Sys2Proof/Safety.lean ====
section
/-! DEFINITION. The invariants of 10_state.md rule R25, and what counts as a run gone wrong. -/

namespace Sys2Proof

open Sys2Proof.Machine

/-- Every slot of the buffer holds a value. -/
def bufferFull (m : Memory) : Bool := (List.finRange 183).all fun i => (m.read i).isSome

/-- Rule R25 on one state: (a), which the registers' types already say, (b), (c), (d) with its upper
bound in `alignCount`'s type, the part of (e) that one state can show, (f), (g); and the buffer's canonical form. -/
structure Inv (s : State) : Prop where
  positionLegal  : s.slotIndex.val ≤ 182 ∧ s.subTick.val ≤ 9
  notBoth        : s.armed = false ∨ s.active = false
  idlePosition   : s.active = false → s.slotIndex = 0 ∧ s.subTick = 0
  armedCount     : s.armed = true → 1 ≤ s.alignCount.val
  unarmedCount   : s.armed = false → s.alignCount.val = 0
  bufferWritten  : s.armed = true ∨ s.active = true → bufferFull s.buf = true
  faultQuiescent : s.fault = true → s.armed = false ∧ s.active = false
  noFaultNoCause : s.fault = false → s.faultCause = .noCause
  canonical      : s.buf.wf = true

/-- Rule R25 item (e) in full: while a telegram waits or is sent, the buffer is exactly the block some one
POLL.COMPOSE wrote. -/
def HoldsOneTelegram (s : State) : Prop :=
  s.armed = true ∨ s.active = true →
    ∃ now : Now, ∃ slots : List PulseCode,
      now.second ≤ Config.skipLimit ∧ telegram (snapOf now) = .ok slots ∧ memWrite [] 0 slots = some s.buf

/-- A state that has not gone wrong: no RangeFault is latched (60_exceptions.md rule R141). -/
def Sound (s : State) : Prop := s.fault = false

/-- Every field of a snapshot is in its range (30_encoding.md rule R53). -/
def InRange (p : Snapshot) : Prop :=
  p.minute ≤ 59 ∧ p.hour ≤ 23 ∧ 1 ≤ p.day ∧ p.day ≤ 31 ∧ p.weekday ≤ 7 ∧ 1 ≤ p.month ∧ p.month ≤ 12

/-- The first field out of its range, in the order minute, hour, day, weekday, month
(41_minute_frame.md rule R89, 60_exceptions.md rule R140). -/
def firstFailing (p : Snapshot) : Option Cause :=
  if p.minute > 59 then some .minute
  else if p.hour > 23 then some .hour
  else if p.day = 0 ∨ p.day > 31 then some .day
  else if p.weekday > 7 then some .weekday
  else if p.month = 0 ∨ p.month > 12 then some .month
  else none

/-- The operation's TD word names a `subTick` that no state holds (30_encoding.md rule R62). -/
def namesReservedSubTick (i : Instr) : Bool :=
  (encode i).format == .td && decide (10 ≤ ((encode i).byte.extractLsb' 0 4).toNat)

/-- The data bits of slots first..first+n−1: `Long` is 1 and `Short` is 0 (30_encoding.md rule R51). The rule does
not define `bit(None)`, which reads as 0 here: DESIGN CHOICE (log 22). -/
def slotBits (f : List PulseCode) (first n : Nat) : List Bool :=
  ((f.drop first).take n).map (· == .long)

/-- The number of `Long` slots among slots first..first+n−1. -/
def longsIn (f : List PulseCode) (first n : Nat) : Nat := ((f.drop first).take n).count .long

/-- The level string of one slot whose line was at v on entry (43_emitter.md rule R128). -/
def slotLevels (code : PulseCode) (v : Level) : List Level :=
  match code with
  | .long => [.low, .low] ++ List.replicate 8 .high
  | .short => [.low] ++ List.replicate 9 .high
  | .none => [v, v] ++ List.replicate 8 .high

/-- The modes a TICK can lead to (60_exceptions.md rule R152). -/
def tickMoves : Mode → List Mode
  | .idle => [.idle]
  | .align => [.align, .transmit]
  | .transmit => [.transmit, .idle]
  | .faulted => [.faulted]

/-- The modes a POLL can lead to (60_exceptions.md rule R152). -/
def pollMoves : Mode → List Mode
  | .idle => [.idle, .align, .faulted]
  | .align => [.align]
  | .transmit => [.transmit]
  | .faulted => [.faulted]

end Sys2Proof
end

