-- ==== Sys2Proof/Certificates/Slice0/Obligations.lean ====
section
/-! DEFINITION. The statements about the model, for the provers. -/

open Sys2Proof Sys2Proof.Machine

/-! ### Encodings -/

/-- Decoding an encoded operation gives it back, with every operand (30_encoding.md rules R57 to R60; the FN
numbers and the code record are the model's own, log 10). -/
def Obligations.DecodeOfEncodeIsTheOperation : Prop :=
  ∀ i : Instr, i.wellFormed = true → decode (encode i) = .ok i

/-- What decodes is well formed, and its encoding is the code it came from: no code has two readings, no bit or
operand of a code is dropped, and everything else is rejected. -/
def Obligations.EncodeOfDecodeIsTheCode : Prop :=
  ∀ (c : Code) (i : Instr), decode c = .ok i → i.wellFormed = true ∧ encode i = c

/-- Words of the opcode table, one or more for every row of the formats EV, TD, SQ and PD, written out, decode to
their operations; EV 00 is no event. The layout of a code and the rejection of a bit above the word are the model's
(DESIGN CHOICE, log 10). -/
def Obligations.TableWordsDecode : Prop :=
  decode ⟨.ev, 0b00000001, .none⟩ = .ok .evTick ∧
  decode ⟨.ev, 0b00000010, .now Now.zero⟩ = .ok (.evPoll Now.zero) ∧
  decode ⟨.ev, 0b00000011, .none⟩ = .ok .reset ∧
  decode ⟨.ev, 0b00000000, .none⟩ = .error .noEvent ∧
  decode ⟨.td, 0b00000111, .none⟩ = .ok (.tickIdle 7) ∧
  decode ⟨.td, 0b00010000, .none⟩ = .ok .tickS0 ∧
  decode ⟨.td, 0b00010001, .none⟩ = .ok .tickS1 ∧
  decode ⟨.td, 0b00010010, .none⟩ = .ok .tickS2 ∧
  decode ⟨.td, 0b00010011, .none⟩ = .ok .tickNop3 ∧
  decode ⟨.td, 0b00010110, .none⟩ = .ok (.tickNop4 2) ∧
  decode ⟨.td, 0b00011000, .none⟩ = .ok .tickNop8 ∧
  decode ⟨.td, 0b00011001, .none⟩ = .ok .tickS9 ∧
  decode ⟨.td, 0b00011011, .none⟩ = .ok (.tickRsvd10 1) ∧
  decode ⟨.td, 0b00011110, .none⟩ = .ok (.tickRsvd12 2) ∧
  decode ⟨.td, 0b00100000, .none⟩ = .error .wordTooWide ∧
  decode ⟨.sq, 0b00000001, .none⟩ = .ok (.seqIdle 1) ∧
  decode ⟨.sq, 0b00000010, .none⟩ = .ok .seqCount ∧
  decode ⟨.sq, 0b00000011, .none⟩ = .ok .seqStart ∧
  decode ⟨.pd, 0b00000110, .none⟩ = .ok (.pollFaulted 2) ∧
  decode ⟨.pd, 0b00000011, .none⟩ = .ok (.pollBusy 1) ∧
  decode ⟨.pd, 0b00000001, .nat 57⟩ = .ok (.pollSkip 57) ∧
  decode ⟨.pd, 0b00000000, .now Now.zero⟩ = .ok (.pollCompose Now.zero)

/-- The codes of the enumerations: PulseCode (R50), levels (R7), causes (R140), statuses (R142), as the output
signals carry them. -/
def Obligations.SignalsCarryTheSpecCodes : Prop :=
  (pulseNumber .none = 0b00 ∧ pulseNumber .short = 0b01 ∧ pulseNumber .long = 0b10) ∧
  (∀ s : State, s.out = .low → s.signals.out = 0) ∧ (∀ s : State, s.out = .high → s.signals.out = 1) ∧
  (∀ s : State, s.signals.faultCause =
    match s.faultCause with
    | .noCause => 0 | .minute => 1 | .hour => 2 | .day => 3 | .weekday => 4 | .month => 5) ∧
  (∀ (s : State) (st : Status) (d : Option Nat), s.reply = .status st d →
    s.signals.alignmentDelay = d ∧
    s.signals.status = some (match st with | .ok => 0 | .skip => 1 | .busy => 2 | .fault => 3))

/-! ### The framer -/

/-- R70, R56: `BCD(v, w)` returns the units digit's four bits and then the tens digit's, bit of weight 1 first, cut
to w; no register changes. -/
def Obligations.BcdReturnsUnitsThenTens : Prop :=
  ∀ (v : Fin 100) (w : Width) (s : State),
    exec (.bcd v w) s =
      .next { s with reply := .bits ((List.range w.bits).map fun k =>
        if k < 4 then (v.val % 10).testBit k else (v.val / 10).testBit (k - 4)) }

/-- R71: `PAR(bits)` returns the bit that makes the number of ones even, for every sequence; no register
changes. -/
def Obligations.ParMakesTheCountEven : Prop :=
  ∀ (bits : List Bool) (s : State), ∃ p : Bool,
    exec (.par bits) s = .next { s with reply := .bits [p] } ∧
    (bits.count true + (if p then 1 else 0)) % 2 = 0

/-- R72 to R77: each field encoder returns `BCD` of its field at its width when the field is in range, and raises
RangeFault with its own cause when it is not; ENC.YEAR never raises. That an encoder run on its own latches the fault
in every state, also over a latched one, is the model's DESIGN CHOICE (log 9): the block raises only inside
POLL.COMPOSE (R140). -/
def Obligations.FieldEncodersReturnOrRaise : Prop :=
  ∀ (n : Nat) (s : State),
    (n ≤ 59 → exec (.encMin n) s = .next { s with reply := .bits (bcdBits n .w7) }) ∧
    (n > 59 → exec (.encMin n) s =
      .next { s with fault := true, faultCause := .minute, reply := .silent }) ∧
    (n ≤ 23 → exec (.encHour n) s = .next { s with reply := .bits (bcdBits n .w6) }) ∧
    (n > 23 → exec (.encHour n) s =
      .next { s with fault := true, faultCause := .hour, reply := .silent }) ∧
    (1 ≤ n ∧ n ≤ 31 → exec (.encDay n) s = .next { s with reply := .bits (bcdBits n .w6) }) ∧
    (n = 0 ∨ n > 31 → exec (.encDay n) s =
      .next { s with fault := true, faultCause := .day, reply := .silent }) ∧
    (1 ≤ n ∧ n ≤ 7 → exec (.encWday n) s = .next { s with reply := .bits (bcdBits n .w3) }) ∧
    (n = 0 → exec (.encWday n) s = .next { s with reply := .bits (bcdBits 7 .w3) }) ∧
    (n > 7 → exec (.encWday n) s =
      .next { s with fault := true, faultCause := .weekday, reply := .silent }) ∧
    (1 ≤ n ∧ n ≤ 12 → exec (.encMon n) s = .next { s with reply := .bits (bcdBits n .w5) }) ∧
    (n = 0 ∨ n > 12 → exec (.encMon n) s =
      .next { s with fault := true, faultCause := .month, reply := .silent }) ∧
    exec (.encYear n) s = .next { s with reply := .bits (bcdBits (n % 100) .w8) }

/-- R79: the bits `BCD` returns decode to its value whenever the tens digit fits the width. -/
def Obligations.BcdDecodesBack : Prop :=
  ∀ (v : Fin 100) (w : Width) (s : State),
    (if w = .w3 then v.val ≤ 7 else v.val / 10 < 2 ^ (w.bits - 4)) →
    ∃ b : List Bool, exec (.bcd v w) s = .next { s with reply := .bits b } ∧
      b.length = w.bits ∧ decodeBcd b = v.val

/-- R80 to R86: the frame of a snapshot in range, slot by slot; no register changes. -/
def Obligations.FrameHasTheTableLayout : Prop :=
  ∀ (p : Snapshot) (s : State), InRange p → ∃ f : List PulseCode,
    exec (.frame p) s = .next { s with reply := .slots f } ∧ f.length = 60 ∧
    (∀ i, i ≤ 16 → f[i]? = some .short) ∧
    f[17]? = some (if p.isDst then .long else .short) ∧
    f[18]? = some (if p.isDst then .short else .long) ∧
    f[19]? = some .short ∧ f[20]? = some .long ∧
    (f.drop 21).take 7 = (bcdBits p.minute .w7).map codeOfBit ∧
    f[28]? = some (codeOfBit (parity (bcdBits p.minute .w7))) ∧
    (f.drop 29).take 6 = (bcdBits p.hour .w6).map codeOfBit ∧
    f[35]? = some (codeOfBit (parity (bcdBits p.hour .w6))) ∧
    (f.drop 36).take 6 = (bcdBits p.day .w6).map codeOfBit ∧
    (f.drop 42).take 3 = (bcdBits (if p.weekday = 0 then 7 else p.weekday) .w3).map codeOfBit ∧
    (f.drop 45).take 5 = (bcdBits p.month .w5).map codeOfBit ∧
    (f.drop 50).take 8 = (bcdBits (p.year % 100) .w8).map codeOfBit ∧
    f[58]? = some (codeOfBit (parity (bcdBits p.day .w6 ++
      bcdBits (if p.weekday = 0 then 7 else p.weekday) .w3 ++ bcdBits p.month .w5 ++
      bcdBits (p.year % 100) .w8))) ∧
    f[59]? = some .none

/-- R79 (the document's testable property, V1) on whole frames: every field decodes back from its slots. -/
def Obligations.FrameFieldsDecodeBack : Prop :=
  ∀ (p : Snapshot) (s : State), InRange p → ∃ f : List PulseCode,
    exec (.frame p) s = .next { s with reply := .slots f } ∧
    decodeBcd (slotBits f 21 7) = p.minute ∧
    decodeBcd (slotBits f 29 6) = p.hour ∧
    decodeBcd (slotBits f 36 6) = p.day ∧
    decodeBcd (slotBits f 42 3) = (if p.weekday = 0 then 7 else p.weekday) ∧
    decodeBcd (slotBits f 45 5) = p.month ∧
    decodeBcd (slotBits f 50 8) = p.year % 100

/-- R83 to R85: the number of `Long` slots is even in each of the three parity groups. -/
def Obligations.FrameParityGroupsAreEven : Prop :=
  ∀ (p : Snapshot) (s : State), InRange p → ∃ f : List PulseCode,
    exec (.frame p) s = .next { s with reply := .slots f } ∧
    longsIn f 21 8 % 2 = 0 ∧ longsIn f 29 7 % 2 = 0 ∧ longsIn f 36 23 % 2 = 0

/-- R88: `Long` slots are even in number and at least two, exactly one slot is `None`, and neither a multiple of
100 years nor weekday 0 for 7 changes the frame. -/
def Obligations.FrameCountsAndAliases : Prop :=
  ∀ (p : Snapshot) (s : State), InRange p → ∃ f : List PulseCode,
    exec (.frame p) s = .next { s with reply := .slots f } ∧
    f.count .long % 2 = 0 ∧ 2 ≤ f.count .long ∧ f.count .none = 1 ∧
    (∀ k : Nat, exec (.frame { p with year := p.year + 100 * k }) s =
      .next { s with reply := .slots f }) ∧
    (p.weekday = 0 ∨ p.weekday = 7 →
      exec (.frame { p with weekday := 0 }) s = .next { s with reply := .slots f } ∧
      exec (.frame { p with weekday := 7 }) s = .next { s with reply := .slots f })

/-- R89: `FRAME` reports the first field out of range in the order minute, hour, day, weekday, month (the spec's
own decision D26), and otherwise returns a frame. That FRAME run on its own latches the fault in every state is the
model's DESIGN CHOICE (log 9). -/
def Obligations.FrameReportsTheFirstFailingField : Prop :=
  ∀ (p : Snapshot) (s : State),
    (∀ c : Cause, firstFailing p = some c →
      exec (.frame p) s = .next { s with fault := true, faultCause := c, reply := .silent }) ∧
    (firstFailing p = none → InRange p ∧
      ∃ f : List PulseCode, exec (.frame p) s = .next { s with reply := .slots f })

/-- R87: what `FRAME` returns depends on its operand alone. -/
def Obligations.FrameDependsOnItsOperandAlone : Prop :=
  ∀ (p : Snapshot) (s₁ s₂ t₁ : State), exec (.frame p) s₁ = .next t₁ →
    ∃ t₂ : State, exec (.frame p) s₂ = .next t₂ ∧ t₂.reply = t₁.reply

/-! ### The calendar and the telegram -/

/-- R102 to R104: one minute later. The fields stay in range, the carry goes minute, hour, day, month, year, the
weekday moves at midnight only, and the DST flag is copied. The month lengths are R101's. -/
def Obligations.NextMinuteCarries : Prop :=
  ∀ p : Snapshot, InRange p →
    InRange (advMin p) ∧ (advMin p).isDst = p.isDst ∧
    (advMin p).minute = (p.minute + 1) % 60 ∧
    (advMin p).hour = (if p.minute = 59 then (p.hour + 1) % 24 else p.hour) ∧
    (advMin p).weekday = (if p.minute = 59 ∧ p.hour = 23 then
      (if p.weekday = 0 then 7 else p.weekday) % 7 + 1 else (if p.weekday = 0 then 7 else p.weekday)) ∧
    (advMin p).day = (if p.minute = 59 ∧ p.hour = 23 then
      (if p.day ≥ daysInMonth p.month p.year then 1 else p.day + 1) else p.day) ∧
    (advMin p).month = (if p.minute = 59 ∧ p.hour = 23 ∧ p.day ≥ daysInMonth p.month p.year then
      p.month % 12 + 1 else p.month) ∧
    (advMin p).year = (if p.minute = 59 ∧ p.hour = 23 ∧ p.day ≥ daysInMonth p.month p.year ∧
      p.month = 12 then p.year + 1 else p.year)

/-- R101: the Gregorian month lengths and leap years (the spec's decision D11, from general knowledge). -/
def Obligations.MonthLengthsAreGregorian : Prop :=
  ∀ y : Nat,
    (∀ mo ∈ [1, 3, 5, 7, 8, 10, 12], daysInMonth mo y = 31) ∧
    (∀ mo ∈ [4, 6, 9, 11], daysInMonth mo y = 30) ∧
    (((y % 4 = 0 ∧ y % 100 ≠ 0) ∨ y % 400 = 0) → daysInMonth 2 y = 29) ∧
    (¬((y % 4 = 0 ∧ y % 100 ≠ 0) ∨ y % 400 = 0) → daysInMonth 2 y = 28)

/-- R102, R146: only frame N can raise: a telegram exists for every snapshot in range, and otherwise its cause is
the first failing field of the first frame. -/
def Obligations.OnlyTheFirstFrameRaises : Prop :=
  ∀ p : Snapshot,
    (InRange p → ∃ slots : List PulseCode, telegram p = .ok slots) ∧
    (∀ c : Cause, firstFailing p = some c → telegram p = .error c)

/-- R55: a telegram has 183 slots, and its `None` slots are exactly 1, 61, 121 and 181. -/
def Obligations.TelegramHasFourGaps : Prop :=
  ∀ (p : Snapshot) (slots : List PulseCode), telegram p = .ok slots →
    slots.length = 183 ∧
    ∀ k : Nat, slots[k]? = some .none ↔ k = 1 ∨ k = 61 ∨ k = 121 ∨ k = 181

/-! ### POLL -/

/-- R106, R107, R115, R37: POLL.COMPOSE in the mode that selects it, for a `now` in range: the header, the frames
of the three consecutive minutes and the trailer stand in the buffer, the count is ten ticks for each of the
58 − second seconds, `armed` is set, the status is OK with the delay, and nothing else changes. That the wait is
counted in ticks by `armed` and `alignCount` is the spec's own decision D15. -/
def Obligations.ComposeStoresTheTelegram : Prop :=
  ∀ (now : Now) (s : State), s.isIdle = true → now.second ≤ 56 → InRange (snapOf now) →
    ∃ (f0 f1 f2 : List PulseCode) (t : State),
      frame (snapOf now) = .ok f0 ∧ frame (advMin (snapOf now)) = .ok f1 ∧
      frame (advMin (advMin (snapOf now))) = .ok f2 ∧
      exec (.pollCompose now) s = .next t ∧
      t = { s with buf := t.buf, alignCount := t.alignCount, armed := true,
                   reply := .status .ok (some (58 - now.second)) } ∧
      t.alignCount.val = 10 * (58 - now.second) ∧
      ∀ k : SlotIndex,
        t.buf.read k =
          if k.val = 0 then some .short
          else if k.val = 1 then some .none
          else if k.val ≤ 61 then f0[k.val - 2]?
          else if k.val ≤ 121 then f1[k.val - 62]?
          else if k.val ≤ 181 then f2[k.val - 122]?
          else some .short

/-- R141: a RangeFault taken by POLL.COMPOSE: the first failing field is latched as the cause, the status is FAULT,
and nothing else changes, the buffer, `armed` and `alignCount` among it. -/
def Obligations.ComposeTakesTheRangeFault : Prop :=
  ∀ (now : Now) (s : State) (c : Cause), s.isIdle = true → now.second ≤ 56 →
    firstFailing (snapOf now) = some c →
    exec (.pollCompose now) s =
      .next { s with fault := true, faultCause := c, reply := .status .fault none }

/-- R105, R146: the operation of a POLL, by the tests fault, busy, skip, in this order. -/
def Obligations.PollTestsFaultThenBusyThenSkip : Prop :=
  ∀ (now : Now) (s : State),
    (s.fault = true → exec (.evPoll now) s = .next { s with reply := .status .fault none }) ∧
    (s.fault = false → s.busy = true →
      exec (.evPoll now) s = .next { s with reply := .status .busy none }) ∧
    (s.fault = false → s.busy = false → now.second > 56 →
      exec (.evPoll now) s = .next { s with reply := .status .skip none }) ∧
    (s.fault = false → s.busy = false → now.second ≤ 56 →
      exec (.evPoll now) s = exec (.pollCompose now) s)

/-- A POLL completes in every state: it always reports a status (R142). -/
def Obligations.EveryPollReportsAStatus : Prop :=
  ∀ (now : Now) (s : State), ∃ (t : State) (st : Status) (d : Option Nat),
    exec (.evPoll now) s = .next t ∧ t.reply = .status st d ∧
    (d.isSome = true ↔ st = .ok) ∧ (st = .skip ∨ st = .busy → t = { s with reply := .status st d })

/-- R108, R109, R110: the declining operations, each in the states that select it, report their status and change
no state. -/
def Obligations.DecliningPollsChangeNoState : Prop :=
  ∀ s : State,
    (∀ bk : BitVec 2, s.fault = true → s.busy = bk.getLsbD 1 →
      exec (.pollFaulted bk) s = .next { s with reply := .status .fault none }) ∧
    (∀ k : BitVec 1, s.fault = false → s.busy = true →
      exec (.pollBusy k) s = .next { s with reply := .status .busy none }) ∧
    (∀ second : Nat, s.fault = false → s.busy = false → second > 56 →
      exec (.pollSkip second) s = .next { s with reply := .status .skip none })

/-- R109, R110: while a fault is latched or a telegram waits or is sent, a POLL does not read `now`; R108: a skipped
POLL reads nothing of it but the second. -/
def Obligations.DeclinedPollsDoNotReadNow : Prop :=
  ∀ (n₁ n₂ : Now) (s : State),
    (s.fault = true ∨ s.busy = true ∨ (n₁.second > 56 ∧ n₂.second > 56)) →
    ∃ t : State, exec (.evPoll n₁) s = .next t ∧ exec (.evPoll n₂) s = .next t

/-! ### The sequencer -/

/-- R111, R112, R113: the three operations of the sequencer, each in the states that select it. That a sequencer
counts the wait is the spec's own decision D15. -/
def Obligations.SequencerOperations : Prop :=
  ∀ s : State,
    (∀ z : BitVec 1, s.armed = false → (z = 1 ↔ s.alignCount.val = 1) →
      exec (.seqIdle z) s = .next { s with reply := .silent }) ∧
    (∀ n : AlignCount, s.armed = true → s.alignCount.val = n.val + 1 → 1 ≤ n.val →
      exec .seqCount s = .next { s with alignCount := n, reply := .silent }) ∧
    (s.armed = true → s.alignCount.val = 1 →
      exec .seqStart s = .next { s with alignCount := 0, armed := false, active := true, reply := .silent })

/-- R111: `alignCount = 0` with `armed = 1` "is unreachable and given no meaning": SEQ.COUNT is refused there. -/
def Obligations.SeqCountRefusesZero : Prop :=
  ∀ s : State, s.armed = true → s.alignCount.val = 0 → exec .seqCount s = .refused .alignCountZero

/-- R112: from an armed state with count N, `active` is set by the N-th TICK and by none before; the emitter half
of each of these ticks changes nothing. -/
def Obligations.AlignmentTakesItsCountOfTicks : Prop :=
  ∀ s : State, s.armed = true → s.active = false → 1 ≤ s.alignCount.val →
    (∀ k : Nat, k < s.alignCount.val → ∃ t : State, ticks k s = .next t ∧
      t.armed = true ∧ t.alignCount.val = s.alignCount.val - k ∧
      t = { s with alignCount := t.alignCount, reply := t.reply }) ∧
    ticks s.alignCount.val s =
      .next { s with alignCount := 0, armed := false, active := true, reply := .silent }

/-! ### The emitter -/

/-- R121: an idle tick changes no register. -/
def Obligations.TickIdleChangesNothing : Prop :=
  ∀ (s : State) (sub : BitVec 4), s.active = false → sub.toNat = s.subTick.val →
    exec (.tickIdle sub) s = .next { s with reply := .silent }

/-- R122, R123, R124: the first three ticks of a slot. -/
def Obligations.FirstThreeTicksOfASlot : Prop :=
  ∀ (s : State) (code : PulseCode), s.active = true →
    (s.subTick = 0 → s.buf.read s.slotIndex = some code →
      exec .tickS0 s = .next { s with
        out := (if code = .none then s.out else .low), subTick := 1, reply := .silent }) ∧
    (s.subTick = 1 → s.buf.read s.slotIndex = some code →
      exec .tickS1 s = .next { s with
        out := (if code = .short then .high else s.out), subTick := 2, reply := .silent }) ∧
    (s.subTick = 2 →
      exec .tickS2 s = .next { s with out := .high, subTick := 3, reply := .silent })

/-- R125: TICK.NOP advances `subTick` by one and changes nothing else, for each of its words. -/
def Obligations.NopTicksOnlyCount : Prop :=
  ∀ s : State, s.active = true →
    (s.subTick = 3 → exec .tickNop3 s = .next { s with subTick := 4, reply := .silent }) ∧
    (∀ x : BitVec 2, s.subTick.val = 4 + x.toNat →
      exec (.tickNop4 x) s = .next { s with subTick := ⟨5 + x.toNat, by omega⟩, reply := .silent }) ∧
    (s.subTick = 8 → exec .tickNop8 s = .next { s with subTick := 9, reply := .silent })

/-- R126: the tenth tick of a slot goes to the next slot, or ends the transmission at slot 182. -/
def Obligations.TenthTickAdvancesOrEnds : Prop :=
  ∀ s : State, s.active = true → s.subTick = 9 →
    (s.slotIndex.val = 182 → exec .tickS9 s =
      .next { s with active := false, slotIndex := 0, subTick := 0, reply := .silent }) ∧
    (∀ j : SlotIndex, j.val = s.slotIndex.val + 1 → exec .tickS9 s =
      .next { s with slotIndex := j, subTick := 0, reply := .silent })

/-- R127: TICK.RSVD, in both its rows, is refused, and no state selects it: its reserved `subTick` cannot be written.
R127 leaves "unrepresentable" or "refuse" to the model, and this is the model's DESIGN CHOICE (log 5, after D7 and
D22). -/
def Obligations.ReservedSubTickIsRefused : Prop :=
  ∀ s : State,
    (∀ x : BitVec 1, exec (.tickRsvd10 x) s = .refused .reservedSubTick ∧
      decode ⟨.td, s.tdWord, .none⟩ ≠ .ok (.tickRsvd10 x)) ∧
    (∀ x : BitVec 2, exec (.tickRsvd12 x) s = .refused .reservedSubTick ∧
      decode ⟨.td, s.tdWord, .none⟩ ≠ .ok (.tickRsvd12 x))

/-- A slot that holds no value (R10, U4): the two ticks that read it fault, and so does their TICK. The fault is
the model's choice for a read the spec gives no value (log 3). -/
def Obligations.UnwrittenSlotFaults : Prop :=
  ∀ s : State, s.active = true → s.buf.read s.slotIndex = none →
    (s.subTick = 0 → exec .tickS0 s = .fault (.unwrittenSlot s.slotIndex)) ∧
    (s.subTick = 1 → exec .tickS1 s = .fault (.unwrittenSlot s.slotIndex)) ∧
    (s.subTick = 0 ∨ s.subTick = 1 → exec .evTick s = .fault (.unwrittenSlot s.slotIndex))

/-- R57 to R59: a TICK runs the one TD operation and then the one SQ operation that the state's dispatch words
decode to. -/
def Obligations.TickRunsItsDispatchWords : Prop :=
  ∀ s : State, ∃ i j : Instr,
    decode ⟨.td, s.tdWord, .none⟩ = .ok i ∧ decode ⟨.sq, s.sqWord, .none⟩ = .ok j ∧
    exec .evTick s = andThen (exec i s) (exec j)

/-- R57, R60: a POLL runs the one PD operation that its dispatch word decodes to. -/
def Obligations.PollRunsItsDispatchWord : Prop :=
  ∀ (now : Now) (s : State), ∃ (i : Instr) (a : Arg),
    (a = .none ∨ a = .nat now.second ∨ a = .now now) ∧
    decode ⟨.pd, s.pdWord now.second, a⟩ = .ok i ∧ exec (.evPoll now) s = exec i s

/-- R57: of the TD operations the state's dispatch word selects exactly one, and of the SQ operations too; every
other is refused. A PD operation that no POLL of the state selects is refused, POLL.COMPOSE among them while a
telegram waits or is sent (R43, U5). The refusal is the model's (DESIGN CHOICE, log 7); TICK.RSVD has its own
(ReservedSubTickIsRefused). -/
def Obligations.OnlyTheSelectedOperationRuns : Prop :=
  ∀ (s : State) (i : Instr),
    ((encode i).format = .td → (∀ x, i ≠ .tickRsvd10 x) → (∀ x, i ≠ .tickRsvd12 x) →
      decode ⟨.td, s.tdWord, .none⟩ ≠ .ok i → exec i s = .refused .notSelected) ∧
    ((encode i).format = .sq → decode ⟨.sq, s.sqWord, .none⟩ ≠ .ok i → exec i s = .refused .notSelected) ∧
    ((encode i).format = .pd → (∀ (second : Nat) (a : Arg), decode ⟨.pd, s.pdWord second, a⟩ ≠ .ok i) →
      exec i s = .refused .notSelected) ∧
    (s.armed = true ∨ s.active = true → ∀ now : Now, exec (.pollCompose now) s = .refused .notSelected)

/-- R120: a TICK completes in every state the invariants allow, and both halves act on the state as it stood at its
start: position, `out` and the end of a transmission come from the emitter half of that state, `armed`,
`alignCount` and a start from its sequencer half. -/
def Obligations.TickHalvesSampleTheStart : Prop :=
  ∀ s : State, (s.armed = false ∨ s.active = false) →
    (s.active = true → (s.buf.read s.slotIndex).isSome = true) →
    (s.armed = true → 1 ≤ s.alignCount.val) →
    ∃ e q : State, emitterHalf s = .next e ∧ sequencerHalf s = .next q ∧
      exec .evTick s = .next { s with
        slotIndex := e.slotIndex, subTick := e.subTick, out := e.out,
        armed := q.armed, alignCount := q.alignCount,
        active := (if s.armed = true then q.active else e.active), reply := .silent }

/-- R128: the ten ticks of one slot, by its code and the level on entry. -/
def Obligations.OneSlotIsTenTicks : Prop :=
  ∀ (s : State) (code : PulseCode), s.active = true → s.armed = false → s.subTick = 0 →
    s.buf.read s.slotIndex = some code →
    levels 10 s = slotLevels code s.out ∧
    ∃ t : State, ticks 10 s = .next t ∧
      t = { s with out := .high, slotIndex := t.slotIndex, active := t.active, reply := .silent } ∧
      (s.slotIndex.val = 182 → t.slotIndex = 0 ∧ t.active = false) ∧
      (s.slotIndex.val ≠ 182 → t.slotIndex.val = s.slotIndex.val + 1 ∧ t.active = true)

/-- R129: a transmission is 1830 ticks, slot i occupies ticks 10·i to 10·i + 9, the last tick clears `active`, and
the line ends high with the buffer unchanged. -/
def Obligations.TransmissionIs1830Ticks : Prop :=
  ∀ s : State, s.active = true → s.armed = false → s.slotIndex = 0 → s.subTick = 0 →
    bufferFull s.buf = true →
    (∀ n : Nat, n < 1830 → ∃ t : State, ticks n s = .next t ∧ t.active = true ∧
      t.slotIndex.val = n / 10 ∧ t.subTick.val = n % 10 ∧ t.buf = s.buf) ∧
    ticks 1830 s = .next { s with active := false, out := .high, reply := .silent }

/-- R129: over a transmission of a composed telegram the line is low for one tick per `Short` and two per `Long`. -/
def Obligations.TransmissionLowTime : Prop :=
  ∀ (s : State) (p : Snapshot) (slots : List PulseCode),
    s.active = true → s.armed = false → s.slotIndex = 0 → s.subTick = 0 →
    telegram p = .ok slots → memWrite [] 0 slots = some s.buf →
    (levels 1830 s).count .low = slots.count .short + 2 * slots.count .long

/-- R131: how one TICK moves the walker position. -/
def Obligations.WalkerMovesOneStepPerTick : Prop :=
  ∀ s t : State, exec .evTick s = .next t →
    (s.active = false → t.slotIndex = s.slotIndex ∧ t.subTick = s.subTick) ∧
    (s.active = true →
      (s.subTick.val ≤ 8 ∧ t.slotIndex = s.slotIndex ∧ t.subTick.val = s.subTick.val + 1) ∨
      (s.subTick.val = 9 ∧ s.slotIndex.val < 182 ∧ t.slotIndex.val = s.slotIndex.val + 1 ∧ t.subTick = 0) ∨
      (s.subTick.val = 9 ∧ s.slotIndex.val = 182 ∧ t.slotIndex = 0 ∧ t.subTick = 0 ∧
        (s.armed = false → t.active = false)))

/-- R133: `out` changes only in a TICK with `active = 1` and `subTick` 0, 1 or 2; no POLL changes it. -/
def Obligations.OutChangesOnlyInTheFirstTicks : Prop :=
  ∀ s t : State,
    (exec .evTick s = .next t → t.out ≠ s.out → s.active = true ∧ s.subTick.val ≤ 2) ∧
    (∀ now : Now, exec (.evPoll now) s = .next t → t.out = s.out)

/-- R13: `active` is set only by the end of the alignment wait and cleared only by the tenth tick of slot 182; no
POLL writes it, and RESET clears it. -/
def Obligations.ActiveIsSetAndClearedInOnePlaceEach : Prop :=
  ∀ s t : State,
    (exec .evTick s = .next t → s.active = false → t.active = true →
      s.armed = true ∧ s.alignCount.val = 1) ∧
    (exec .evTick s = .next t → s.active = true → t.active = false →
      s.slotIndex.val = 182 ∧ s.subTick.val = 9) ∧
    (∀ now : Now, exec (.evPoll now) s = .next t → t.active = s.active) ∧
    (exec .reset s = .next t → t.active = false)

/-- R3: the emitter and sequencer never write the buffer or the fault registers, and the composer never writes the
emitter's position, `active` or `out`. -/
def Obligations.EmitterAndComposerKeepApart : Prop :=
  ∀ s t : State,
    (exec .evTick s = .next t → t.buf = s.buf ∧ t.fault = s.fault ∧ t.faultCause = s.faultCause ∧
      t.outReset = s.outReset ∧ t.pending = s.pending ∧ t.reply = .silent) ∧
    (∀ now : Now, exec (.evPoll now) s = .next t → t.slotIndex = s.slotIndex ∧ t.subTick = s.subTick ∧
      t.active = s.active ∧ t.out = s.out ∧ t.outReset = s.outReset ∧ t.pending = s.pending)

/-! ### Reset, the step and the event port -/

/-- R160, R26: RESET in any state. That the port keeps what the host has still to deliver is log 13's choice, and
that the unspecified buffer holds no value is log 3's (both DESIGN CHOICE). -/
def Obligations.ResetGivesTheResetState : Prop :=
  ∀ s : State, exec .reset s = .next
    { buf := [], slotIndex := 0, subTick := 0, active := false, out := s.outReset, armed := false,
      alignCount := 0, fault := false, faultCause := .noCause, pending := s.pending, reply := .silent,
      outReset := s.outReset }

/-- A step executes the operation the next event's code decodes to (R57, R147); the port is the model's (log 1). -/
def Obligations.StepExecutesTheDecodedEvent : Prop :=
  ∀ (s s' : State) (c : Code) (i : Instr), s.fetch = some (c, s') → decode c = .ok i → step s = exec i s'

/-- What a step serves (R57, R147): one event of the oldest instant, in either order when a TICK and a POLL are
raised together; nothing when nothing is raised. -/
def Obligations.StepServesOneEvent : Prop :=
  ∀ (s : State) (rest : List Instant) (now : Now) (order : Bool),
    (s.pending = ⟨false, true, none, order⟩ :: rest → step s = exec .evTick { s with pending := rest }) ∧
    (s.pending = ⟨false, false, some now, order⟩ :: rest →
      step s = exec (.evPoll now) { s with pending := rest }) ∧
    (s.pending = ⟨false, true, some now, false⟩ :: rest →
      step s = exec .evTick { s with pending := ⟨false, false, some now, false⟩ :: rest }) ∧
    (s.pending = ⟨false, true, some now, true⟩ :: rest →
      step s = exec (.evPoll now) { s with pending := ⟨false, true, none, true⟩ :: rest }) ∧
    (s.pending = [] → step s = .next { s with reply := .silent })

/-- R147: "RESET taken together with any other event wins: the other event is dropped". -/
def Obligations.SimultaneousResetWins : Prop :=
  ∀ (s : State) (x : Instant) (rest : List Instant), s.pending = x :: rest → x.reset = true →
    step s = exec .reset { s with pending := rest }

/-- R147: a TICK and a POLL raised together give the same state in either order, but for the two instants the rule
names: (i) the TICK that ends a transmission, and (iii) a POLL that composes. The POLL reports the same in either
order but at (i), BUSY at the start of a transmission (ii) among it. -/
def Obligations.PollAndTickOrderMattersTwice : Prop :=
  ∀ (s : State) (now : Now), Inv s →
    (¬(s.active = true ∧ s.slotIndex.val = 182 ∧ s.subTick.val = 9) →
     ¬(s.isIdle = true ∧ now.second ≤ 56 ∧ InRange (snapOf now)) →
      ∃ a b c : State, exec .evTick s = .next a ∧ exec (.evPoll now) a = .next c ∧
        exec (.evPoll now) s = .next b ∧ b.reply = c.reply ∧
        exec .evTick b = .next { c with reply := .silent }) ∧
    (s.active = true ∧ s.slotIndex.val = 182 ∧ s.subTick.val = 9 →
      exec (.evPoll now) s = .next { s with reply := .status .busy none } ∧
      ∃ a : State, exec .evTick s = .next a ∧ a.isIdle = true) ∧
    (s.isIdle = true ∧ now.second ≤ 56 ∧ InRange (snapOf now) →
      ∃ a b c d : State, exec .evTick s = .next a ∧ exec (.evPoll now) a = .next c ∧
        exec (.evPoll now) s = .next b ∧ b.reply = c.reply ∧ exec .evTick b = .next d ∧
        c.alignCount.val = d.alignCount.val + 1 ∧
        d = { c with alignCount := d.alignCount, reply := .silent })

/-- R148, R149: with a fault latched, TICKs change no register and every POLL answers FAULT and keeps the first
cause; RESET clears both fault registers. -/
def Obligations.FaultIsLeftByResetOnly : Prop :=
  ∀ s : State, Inv s → s.fault = true →
    exec .evTick s = .next { s with reply := .silent } ∧
    (∀ now : Now, exec (.evPoll now) s = .next { s with reply := .status .fault none }) ∧
    ∃ t : State, exec .reset s = .next t ∧ t.fault = false ∧ t.faultCause = .noCause

/-- A state set up for an operation makes the next step execute it, for every operation an event can select (R57 to
R60): all but the framer's, and those whose word names a reserved `subTick`; the set-up is the model's (log 12). -/
def Obligations.SelectedOperationIsStepped : Prop :=
  ∀ (s : State) (i : Instr), i.wellFormed = true → (encode i).format ≠ .fn → namesReservedSubTick i = false →
    step (s.select i) = exec i { s.select i with pending := s.pending }

/-! ### Invariants and whole runs -/

/-- R25 holds after RESET, for both values of OUT_RESET. -/
def Obligations.InvariantsHoldAtReset : Prop :=
  Inv State.reset ∧ (∀ o : Level, Inv (State.resetWith o)) ∧ HoldsOneTelegram State.reset

/-- R25: every event preserves the invariants, from every state that has them. -/
def Obligations.EveryStepKeepsTheInvariants : Prop :=
  ∀ s t : State, Inv s → step s = .next t → Inv t

/-- R25 item (e), R40: while a telegram waits or is sent, the buffer is the block that one POLL.COMPOSE wrote, from
every state where that and the other invariants hold. -/
def Obligations.EveryStepKeepsOneTelegram : Prop :=
  ∀ s t : State, Inv s → HoldsOneTelegram s → step s = .next t → HoldsOneTelegram t

/-- R143, R166: in a state with the invariants no step stops: every tick and every poll completes. The stops are
the model's (logs 3, 6, 7); this says that none is reached. -/
def Obligations.NoStepStops : Prop :=
  ∀ s : State, Inv s →
    (∃ t : State, step s = .next t) ∧ (∃ t : State, exec .evTick s = .next t) ∧
    (∀ now : Now, ∃ t : State, exec (.evPoll now) s = .next t)

/-- R152: every state with the invariants is in one of the four modes, and the three events move between them as
the table says: a telegram starts only in ALIGN and ends in IDLE, a POLL is served in IDLE only, FAULTED is left by
RESET alone. -/
def Obligations.ModesMoveAsTheTableSays : Prop :=
  ∀ s : State, Inv s → ∃ m : Mode, s.mode = some m ∧
    (∃ t : State, ∃ m' ∈ tickMoves m, exec .evTick s = .next t ∧ t.mode = some m') ∧
    (∀ now : Now, ∃ t : State, ∃ m' ∈ pollMoves m, exec (.evPoll now) s = .next t ∧ t.mode = some m') ∧
    (∃ t : State, exec .reset s = .next t ∧ t.mode = some .idle)

/-- R116: from an idle state a POLL that composes keeps the block busy for 10·(58 − second) ticks of alignment and
1830 of transmission; then it is idle again with the line high. -/
def Obligations.WholeCycle : Prop :=
  ∀ (s : State) (now : Now), Inv s → s.isIdle = true → now.second ≤ 56 → InRange (snapOf now) →
    ∃ t : State, exec (.evPoll now) s = .next t ∧
      (∀ n : Nat, n < 10 * (58 - now.second) + 1830 → ∃ u : State, ticks n t = .next u ∧ u.busy = true) ∧
      ticks (10 * (58 - now.second) + 1830) t =
        .next { t with alignCount := 0, armed := false, active := false, out := .high, reply := .silent }
end

