-- ==== Sys2Proof/Laws/Framer.lean ====
section
/-! SUPPORT. The framer's functions: lengths, when they answer and when they report a cause. -/

namespace Sys2Proof.Machine

@[simp] theorem bcdBits_length (v : Nat) (w : Width) : (bcdBits v w).length = w.bits := by
  simp [bcdBits]

theorem normWeekday_range {wd : Nat} (h : wd ≤ 7) : 1 ≤ normWeekday wd ∧ normWeekday wd ≤ 7 := by
  unfold normWeekday; split <;> omega

@[simp] theorem normWeekday_idem (wd : Nat) : normWeekday (normWeekday wd) = normWeekday wd := by
  unfold normWeekday; split <;> simp_all

theorem encMin_ok {n : Nat} (h : n ≤ 59) : encMin n = .ok (bcdBits n .w7) := by
  simp [encMin]; omega
theorem encHour_ok {n : Nat} (h : n ≤ 23) : encHour n = .ok (bcdBits n .w6) := by
  simp [encHour]; omega
theorem encDay_ok {n : Nat} (h : 1 ≤ n) (h' : n ≤ 31) : encDay n = .ok (bcdBits n .w6) := by
  simp [encDay]; omega
theorem encWday_ok {n : Nat} (h : n ≤ 7) : encWday n = .ok (bcdBits (normWeekday n) .w3) := by
  simp [encWday]; omega
theorem encMon_ok {n : Nat} (h : 1 ≤ n) (h' : n ≤ 12) : encMon n = .ok (bcdBits n .w5) := by
  simp [encMon]; omega

/-- The 60 slots of the frame of a snapshot whose fields are in range. -/
def frameSlots (p : Snapshot) : List PulseCode :=
  (frameBits p.isDst (bcdBits p.minute .w7) (bcdBits p.hour .w6) (bcdBits p.day .w6)
    (bcdBits (normWeekday p.weekday) .w3) (bcdBits p.month .w5) (encYear p.year)).map codeOfBit ++ [.none]

/-- `frame` answers its slots for a snapshot in range. -/
theorem frame_ok {p : Snapshot} (h : InRange p) : frame p = .ok (frameSlots p) := by
  obtain ⟨h1, h2, h3, h4, h5, h6, h7⟩ := h
  simp only [frame, encMin_ok h1, encHour_ok h2, encDay_ok h3 h4, encWday_ok h5, encMon_ok h6 h7]
  rfl

theorem frameSlots_length (p : Snapshot) : (frameSlots p).length = 60 := by
  simp [frameSlots, frameBits, encYear, Width.bits]

/-- `frame` answers only for a snapshot in range. -/
theorem inRange_of_frame_ok {p : Snapshot} {f : List PulseCode} (h : frame p = .ok f) : InRange p := by
  have hm : p.minute ≤ 59 := by
    by_contra hc
    have : p.minute > 59 := by omega
    simp only [frame, encMin, if_pos this] at h
    cases h
  have hh : p.hour ≤ 23 := by
    by_contra hc
    have : p.hour > 23 := by omega
    simp only [frame, encMin_ok hm, encHour, if_pos this] at h
    cases h
  have hd : 1 ≤ p.day ∧ p.day ≤ 31 := by
    by_contra hc
    have : p.day < 1 ∨ p.day > 31 := by omega
    simp only [frame, encMin_ok hm, encHour_ok hh, encDay, if_pos this] at h
    cases h
  have hw : p.weekday ≤ 7 := by
    by_contra hc
    have : p.weekday > 7 := by omega
    simp only [frame, encMin_ok hm, encHour_ok hh, encDay_ok hd.1 hd.2, encWday, if_pos this] at h
    cases h
  have hn : 1 ≤ p.month ∧ p.month ≤ 12 := by
    by_contra hc
    have : p.month < 1 ∨ p.month > 12 := by omega
    simp only [frame, encMin_ok hm, encHour_ok hh, encDay_ok hd.1 hd.2, encWday_ok hw, encMon, if_pos this] at h
    cases h
  exact ⟨hm, hh, hd.1, hd.2, hw, hn.1, hn.2⟩

theorem frame_length {p : Snapshot} {f : List PulseCode} (h : frame p = .ok f) : f.length = 60 := by
  rw [frame_ok (inRange_of_frame_ok h)] at h
  cases h
  exact frameSlots_length p

/-- A telegram is the header, the frames of three consecutive snapshots, and the trailer. -/
theorem telegram_cases {p : Snapshot} {t : List PulseCode} (h : telegram p = .ok t) :
    ∃ f0 f1 f2, frame p = .ok f0 ∧ frame (advMin p) = .ok f1 ∧ frame (advMin (advMin p)) = .ok f2
      ∧ t = [.short, .none] ++ f0 ++ f1 ++ f2 ++ [.short] := by
  unfold telegram at h
  cases h0 : frame p with
  | error c => rw [h0] at h; cases h
  | ok f0 =>
    cases h1 : frame (advMin p) with
    | error c => rw [h0, h1] at h; cases h
    | ok f1 =>
      cases h2 : frame (advMin (advMin p)) with
      | error c => rw [h0, h1, h2] at h; cases h
      | ok f2 => rw [h0, h1, h2] at h; cases h; exact ⟨f0, f1, f2, rfl, rfl, rfl, rfl⟩

theorem telegram_length {p : Snapshot} {t : List PulseCode} (h : telegram p = .ok t) :
    t.length = 183 := by
  obtain ⟨f0, f1, f2, h0, h1, h2, rfl⟩ := telegram_cases h
  simp [frame_length h0, frame_length h1, frame_length h2]

/-- A snapshot out of range has no telegram: the cause is the first frame's. -/
theorem telegram_error_of_frame_error {p : Snapshot} {c : Cause} (h : frame p = .error c) :
    telegram p = .error c := by
  unfold telegram; rw [h]; rfl

end Sys2Proof.Machine
end

