-- ==== Sys2Proof/Laws/Memory.lean ====
section
/-! SUPPORT. The laws of the telegram buffer: what a read finds after a write, and that every write keeps the
canonical form. -/

namespace Sys2Proof.Machine

theorem Memory.read_write_same (m : Memory) (i : SlotIndex) (c : PulseCode) :
    (m.write i c).read i = some c := by
  induction m with
  | nil => simp [Memory.write, Memory.read]
  | cons a rest ih =>
    obtain ⟨j, d⟩ := a
    simp only [Memory.write]
    split
    · simp [Memory.read]
    · split
      · simp [Memory.read]
      · rename_i h; simp [Memory.read, h, ih]

theorem Memory.read_write_other (m : Memory) (i k : SlotIndex) (c : PulseCode) (h : k ≠ i) :
    (m.write i c).read k = m.read k := by
  induction m with
  | nil => simp [Memory.write, Memory.read, h]
  | cons a rest ih =>
    obtain ⟨j, d⟩ := a
    simp only [Memory.write]
    split
    · simp [Memory.read, h]
    · split
      · rename_i hij; subst hij; simp [Memory.read, h]
      · simp [Memory.read, ih]

theorem Memory.read_write (m : Memory) (i k : SlotIndex) (c : PulseCode) :
    (m.write i c).read k = if k = i then some c else m.read k := by
  split
  · next h => subst h; exact m.read_write_same k c
  · next h => exact m.read_write_other i k c h

/-- The canonical form as a property of the list of indexes. -/
theorem Memory.wf_iff_pairwise (m : Memory) :
    m.wf = true ↔ m.Pairwise (fun a b => a.1 < b.1) := by
  induction m with
  | nil => simp [Memory.wf]
  | cons a rest ih =>
    cases rest with
    | nil => simp [Memory.wf]
    | cons b rest =>
      simp only [Memory.wf, Bool.and_eq_true, decide_eq_true_eq, ih, List.pairwise_cons]
      constructor
      · rintro ⟨hab, hb, hr⟩
        refine ⟨?_, hb, hr⟩
        intro x hx
        rcases List.mem_cons.mp hx with rfl | hx
        · exact hab
        · exact lt_trans hab (hb x hx)
      · rintro ⟨ha, hb, hr⟩
        exact ⟨ha b (List.mem_cons_self ..), hb, hr⟩

theorem Memory.mem_write {m : Memory} {i : SlotIndex} {c : PulseCode} {x : Cell}
    (h : x ∈ m.write i c) : x = (i, c) ∨ x ∈ m := by
  induction m with
  | nil => simpa [Memory.write] using h
  | cons a rest ih =>
    obtain ⟨j, d⟩ := a
    simp only [Memory.write] at h
    split at h
    · simpa using h
    · split at h
      · rcases List.mem_cons.mp h with h | h
        · exact .inl h
        · exact .inr (List.mem_cons_of_mem _ h)
      · rcases List.mem_cons.mp h with h | h
        · exact .inr (h ▸ List.mem_cons_self ..)
        · rcases ih h with h | h
          · exact .inl h
          · exact .inr (List.mem_cons_of_mem _ h)

theorem Memory.write_wf {m : Memory} (i : SlotIndex) (c : PulseCode) (h : m.wf = true) :
    (m.write i c).wf = true := by
  rw [Memory.wf_iff_pairwise] at *
  induction m with
  | nil => simp [Memory.write]
  | cons a rest ih =>
    obtain ⟨j, d⟩ := a
    rw [List.pairwise_cons] at h
    simp only [Memory.write]
    split
    · next hij =>
      refine List.pairwise_cons.mpr ⟨?_, List.pairwise_cons.mpr h⟩
      intro x hx
      rcases List.mem_cons.mp hx with rfl | hx
      · exact hij
      · exact lt_trans hij (h.1 x hx)
    · split
      · next hij => subst hij; exact List.pairwise_cons.mpr h
      · next h1 h2 =>
        refine List.pairwise_cons.mpr ⟨?_, ih h.2⟩
        intro x hx
        rcases Memory.mem_write hx with rfl | hx
        · exact lt_of_le_of_ne (not_lt.mp h1) (Ne.symm h2)
        · exact h.1 x hx

/-- A block write succeeds exactly inside the bound. -/
theorem memWrite_isSome (m : Memory) (i : Nat) (v : List PulseCode) :
    (memWrite m i v).isSome = true ↔ i + v.length ≤ 183 := by
  induction v generalizing i with
  | nil => simp [memWrite]
  | cons c cs ih =>
    simp only [memWrite, List.length_cons]
    split
    · split
      · next hw => have := (ih (i + 1)).mp (by rw [hw]; rfl); simp; omega
      · next hw =>
        have := (ih (i + 1)).not.mp (by simp [hw])
        simp; omega
    · simp; omega

theorem memWrite_wf {m m' : Memory} {i : Nat} {v : List PulseCode} (hm : m.wf = true)
    (h : memWrite m i v = some m') : m'.wf = true := by
  induction v generalizing i m' with
  | nil => simp only [memWrite] at h; split at h <;> simp_all
  | cons c cs ih =>
    simp only [memWrite] at h
    split at h
    · split at h
      · next hw => cases h; exact Memory.write_wf _ _ (ih hw)
      · cases h
    · cases h

/-- What a slot reads as after a block write: the block's element inside it, the old value outside. -/
theorem memWrite_read {m m' : Memory} {i : Nat} {v : List PulseCode}
    (h : memWrite m i v = some m') (k : SlotIndex) :
    m'.read k = if i ≤ k.val ∧ k.val < i + v.length then v[k.val - i]? else m.read k := by
  induction v generalizing i m' with
  | nil =>
    simp only [memWrite] at h
    split at h
    · cases h; rw [if_neg (by simp)]
    · cases h
  | cons c cs ih =>
    simp only [memWrite] at h
    split at h
    · next hi =>
      split at h
      · next hw =>
        cases h
        rw [Memory.read_write, ih hw]
        by_cases hk : k = ⟨i, hi⟩
        · subst hk; simp
        · have hne : k.val ≠ i := fun he => hk (Fin.ext he)
          rw [if_neg hk]
          by_cases hr : i + 1 ≤ k.val ∧ k.val < i + 1 + cs.length
          · rw [if_pos hr, if_pos (by simp; omega)]
            obtain ⟨d, hd⟩ : ∃ d, k.val - i = d + 1 := ⟨k.val - i - 1, by omega⟩
            rw [hd, List.getElem?_cons_succ]; congr 1; omega
          · rw [if_neg hr, if_neg (by simp; omega)]
      · cases h
    · cases h

theorem Memory.read_isSome (m : Memory) (i : SlotIndex) :
    (m.read i).isSome = true ↔ ∃ c, (i, c) ∈ m := by
  induction m with
  | nil => simp [Memory.read]
  | cons a rest ih =>
    obtain ⟨j, d⟩ := a
    by_cases h : i = j
    · subst h; simp [Memory.read]
    · simp [Memory.read, h, ih]

/-- No index below the first listed one holds a value. -/
theorem Memory.read_none_of_lt {a : Cell} {rest : Memory} (h : Memory.wf (a :: rest) = true) {i : SlotIndex}
    (hi : i < a.1) : Memory.read (a :: rest) i = none := by
  rw [Memory.wf_iff_pairwise, List.pairwise_cons] at h
  by_contra hn
  obtain ⟨c, hc⟩ := (Memory.read_isSome _ i).mp (Option.isSome_iff_ne_none.mpr hn)
  rcases List.mem_cons.mp hc with rfl | hc
  · exact lt_irrefl _ hi
  · exact lt_irrefl _ (lt_trans hi (h.1 _ hc))

/-- In canonical form equal buffers are equal lists. -/
theorem Memory.ext_read {m₁ m₂ : Memory} (h₁ : m₁.wf = true) (h₂ : m₂.wf = true)
    (h : ∀ i, m₁.read i = m₂.read i) : m₁ = m₂ := by
  induction m₁ generalizing m₂ with
  | nil =>
    cases m₂ with
    | nil => rfl
    | cons b r₂ => obtain ⟨j, d⟩ := b; simpa [Memory.read] using h j
  | cons a r₁ ih =>
    obtain ⟨i, c⟩ := a
    cases m₂ with
    | nil => simpa [Memory.read] using h i
    | cons b r₂ =>
      obtain ⟨j, d⟩ := b
      have hij : i = j := by
        rcases lt_trichotomy i j with hlt | he | hlt
        · have := h i; rw [Memory.read_none_of_lt h₂ hlt] at this; simp [Memory.read] at this
        · exact he
        · have := h j; rw [Memory.read_none_of_lt h₁ hlt] at this; simp [Memory.read] at this
      subst hij
      have hcd : c = d := by simpa [Memory.read] using h i
      subst hcd
      have p₁ := (Memory.wf_iff_pairwise _).mp h₁
      have p₂ := (Memory.wf_iff_pairwise _).mp h₂
      rw [List.pairwise_cons] at p₁ p₂
      congr 1
      refine ih ((Memory.wf_iff_pairwise _).mpr p₁.2) ((Memory.wf_iff_pairwise _).mpr p₂.2) fun k => ?_
      by_cases hk : k = i
      · subst hk
        have n₁ : Memory.read r₁ k = none := by
          by_contra hn
          obtain ⟨x, hx⟩ := (Memory.read_isSome _ k).mp (Option.isSome_iff_ne_none.mpr hn)
          exact lt_irrefl k (p₁.1 (k, x) hx)
        have n₂ : Memory.read r₂ k = none := by
          by_contra hn
          obtain ⟨x, hx⟩ := (Memory.read_isSome _ k).mp (Option.isSome_iff_ne_none.mpr hn)
          exact lt_irrefl k (p₂.1 (k, x) hx)
        rw [n₁, n₂]
      · simpa [Memory.read, hk] using h k

/-- The emitter's read is the read of one slot. -/
@[simp] theorem State.slotCode_eq (s : State) : s.slotCode = s.buf.read s.slotIndex := by
  have h : s.slotIndex.val < 183 := s.slotIndex.isLt
  simp only [State.slotCode, memRead, h, dite_true]
  rw [if_pos (show s.slotIndex.val + 1 ≤ Config.nSlots from h)]
  cases hr : s.buf.read ⟨s.slotIndex.val, h⟩ <;> simp_all

end Sys2Proof.Machine
end

