-- ==== Sys2Proof/Laws/State.lean ====
section
/-! SUPPORT. The fields of a state after each named update, one lemma each, true by unfolding. -/

namespace Sys2Proof.Machine

variable (s : State)

@[simp] theorem State.silence_buf : s.silence.buf = s.buf := rfl
@[simp] theorem State.silence_slotIndex : s.silence.slotIndex = s.slotIndex := rfl
@[simp] theorem State.silence_subTick : s.silence.subTick = s.subTick := rfl
@[simp] theorem State.silence_active : s.silence.active = s.active := rfl
@[simp] theorem State.silence_out : s.silence.out = s.out := rfl
@[simp] theorem State.silence_armed : s.silence.armed = s.armed := rfl
@[simp] theorem State.silence_alignCount : s.silence.alignCount = s.alignCount := rfl
@[simp] theorem State.silence_fault : s.silence.fault = s.fault := rfl
@[simp] theorem State.silence_faultCause : s.silence.faultCause = s.faultCause := rfl
@[simp] theorem State.silence_pending : s.silence.pending = s.pending := rfl
@[simp] theorem State.silence_outReset : s.silence.outReset = s.outReset := rfl
@[simp] theorem State.silence_reply : s.silence.reply = .silent := rfl
@[simp] theorem State.silence_silence : s.silence.silence = s.silence := rfl

@[simp] theorem State.raiseNext_buf (x : Instant) : (s.raiseNext x).buf = s.buf := rfl
@[simp] theorem State.raiseNext_slotIndex (x : Instant) : (s.raiseNext x).slotIndex = s.slotIndex := rfl
@[simp] theorem State.raiseNext_subTick (x : Instant) : (s.raiseNext x).subTick = s.subTick := rfl
@[simp] theorem State.raiseNext_active (x : Instant) : (s.raiseNext x).active = s.active := rfl
@[simp] theorem State.raiseNext_out (x : Instant) : (s.raiseNext x).out = s.out := rfl
@[simp] theorem State.raiseNext_armed (x : Instant) : (s.raiseNext x).armed = s.armed := rfl
@[simp] theorem State.raiseNext_alignCount (x : Instant) : (s.raiseNext x).alignCount = s.alignCount := rfl
@[simp] theorem State.raiseNext_fault (x : Instant) : (s.raiseNext x).fault = s.fault := rfl
@[simp] theorem State.raiseNext_faultCause (x : Instant) : (s.raiseNext x).faultCause = s.faultCause := rfl
@[simp] theorem State.raiseNext_pending (x : Instant) : (s.raiseNext x).pending = x :: s.pending := rfl
@[simp] theorem State.raiseNext_outReset (x : Instant) : (s.raiseNext x).outReset = s.outReset := rfl
@[simp] theorem State.raiseNext_reply (x : Instant) : (s.raiseNext x).reply = s.reply := rfl

@[simp] theorem State.raise_buf (tr : List TraceItem) : (s.raise tr).buf = s.buf := rfl
@[simp] theorem State.raise_slotIndex (tr : List TraceItem) : (s.raise tr).slotIndex = s.slotIndex := rfl
@[simp] theorem State.raise_subTick (tr : List TraceItem) : (s.raise tr).subTick = s.subTick := rfl
@[simp] theorem State.raise_active (tr : List TraceItem) : (s.raise tr).active = s.active := rfl
@[simp] theorem State.raise_out (tr : List TraceItem) : (s.raise tr).out = s.out := rfl
@[simp] theorem State.raise_armed (tr : List TraceItem) : (s.raise tr).armed = s.armed := rfl
@[simp] theorem State.raise_alignCount (tr : List TraceItem) : (s.raise tr).alignCount = s.alignCount := rfl
@[simp] theorem State.raise_fault (tr : List TraceItem) : (s.raise tr).fault = s.fault := rfl
@[simp] theorem State.raise_faultCause (tr : List TraceItem) : (s.raise tr).faultCause = s.faultCause := rfl
@[simp] theorem State.raise_pending (tr : List TraceItem) :
    (s.raise tr).pending = s.pending ++ tr.flatMap expandItem := rfl
@[simp] theorem State.raise_outReset (tr : List TraceItem) : (s.raise tr).outReset = s.outReset := rfl
@[simp] theorem State.raise_reply (tr : List TraceItem) : (s.raise tr).reply = s.reply := rfl

@[simp] theorem State.resetWith_buf (o : Level) : (State.resetWith o).buf = [] := rfl
@[simp] theorem State.resetWith_slotIndex (o : Level) : (State.resetWith o).slotIndex = 0 := rfl
@[simp] theorem State.resetWith_subTick (o : Level) : (State.resetWith o).subTick = 0 := rfl
@[simp] theorem State.resetWith_active (o : Level) : (State.resetWith o).active = false := rfl
@[simp] theorem State.resetWith_out (o : Level) : (State.resetWith o).out = o := rfl
@[simp] theorem State.resetWith_armed (o : Level) : (State.resetWith o).armed = false := rfl
@[simp] theorem State.resetWith_alignCount (o : Level) : (State.resetWith o).alignCount = 0 := rfl
@[simp] theorem State.resetWith_fault (o : Level) : (State.resetWith o).fault = false := rfl
@[simp] theorem State.resetWith_faultCause (o : Level) : (State.resetWith o).faultCause = .noCause := rfl
@[simp] theorem State.resetWith_pending (o : Level) : (State.resetWith o).pending = [] := rfl
@[simp] theorem State.resetWith_outReset (o : Level) : (State.resetWith o).outReset = o := rfl
@[simp] theorem State.resetWith_reply (o : Level) : (State.resetWith o).reply = .silent := rfl

end Sys2Proof.Machine
end

