-- ==== Sys2Proof/Laws/Ops.lean ====
section
/-! SUPPORT. The shared operations: for each, once, everything it can do. -/

namespace Sys2Proof.Machine

theorem andThen_next {r : Result} {g : State → Result} {t : State} :
    andThen r g = .next t ↔ ∃ s, r = .next s ∧ g s = .next t := by
  cases r <;> simp [andThen]

@[simp] theorem andThen_of_next (s : State) (g : State → Result) : andThen (.next s) g = g s := rfl

theorem whenSelected_next {b : Bool} {r : Result} {t : State} :
    whenSelected b r = .next t ↔ b = true ∧ r = .next t := by
  cases b <;> simp [whenSelected]

theorem whenSelected_true (r : Result) : whenSelected true r = r := rfl

theorem whenSelected_false (r : Result) : whenSelected false r = .refused .notSelected := rfl

theorem withSlotCode_next {s t : State} {f : PulseCode → State} :
    withSlotCode s f = .next t ↔ ∃ c, s.buf.read s.slotIndex = some c ∧ f c = t := by
  unfold withSlotCode
  rw [State.slotCode_eq]
  cases s.buf.read s.slotIndex <;> simp

theorem returnBits_next {r : Except Cause (List Bool)} {s t : State} :
    returnBits r s = .next t ↔
      (∃ b, r = .ok b ∧ t = { s with reply := .bits b }) ∨
      (∃ c, r = .error c ∧ t = { s with fault := true, faultCause := c, reply := .silent }) := by
  cases r <;> simp [returnBits, raiseRangeFault, eq_comm]

/-- A step with nothing pending changes the last reply only. -/
theorem step_nothing_pending {s : State} (h : s.pending = []) : step s = .next s.silence := by
  simp [step, State.fetch, h]

/-- A step executes the operation the first pending instant's code decodes to. -/
theorem step_of_ok {s : State} {x : Instant} {rest : List Instant} {i : Instr}
    (h : s.pending = x :: rest) (hd : decode x.take.1 = .ok i) :
    step s = exec i { s with pending := x.take.2.toList ++ rest } := by
  simp only [step, State.fetch, h, hd]

/-- At an instant with no event a step drops the instant and the last reply. -/
theorem step_of_noEvent {s : State} {x : Instant} {rest : List Instant}
    (h : s.pending = x :: rest) (hd : decode x.take.1 = .error .noEvent) :
    step s = .next { s with pending := x.take.2.toList ++ rest }.silence := by
  simp only [step, State.fetch, h, hd]

/-- The four things the port can deliver. -/
theorem take_decodes (x : Instant) :
    decode x.take.1 = .ok .reset ∨ decode x.take.1 = .ok .evTick ∨
    (∃ now, x.poll = some now ∧ decode x.take.1 = .ok (.evPoll now)) ∨
    decode x.take.1 = .error .noEvent := by
  obtain ⟨r, t, p, f⟩ := x
  cases r <;> cases t <;> cases p <;> cases f <;> simp [Instant.take, decode, decodeEv]

/-- Everything a step can do: serve one of the three events, or serve none. -/
theorem step_cases {s t : State} (h : step s = .next t) :
    (∃ p, exec .reset { s with pending := p } = .next t) ∨
    (∃ p, exec .evTick { s with pending := p } = .next t) ∨
    (∃ p now, exec (.evPoll now) { s with pending := p } = .next t) ∨
    (∃ p, t = { s with pending := p }.silence) := by
  cases hp : s.pending with
  | nil =>
    rw [step_nothing_pending hp] at h
    cases h
    exact .inr (.inr (.inr ⟨[], by rw [← hp]⟩))
  | cons x rest =>
    rcases take_decodes x with hd | hd | ⟨now, -, hd⟩ | hd
    · exact .inl ⟨_, step_of_ok hp hd ▸ h⟩
    · exact .inr (.inl ⟨_, step_of_ok hp hd ▸ h⟩)
    · exact .inr (.inr (.inl ⟨_, now, step_of_ok hp hd ▸ h⟩))
    · rw [step_of_noEvent hp hd] at h
      cases h
      exact .inr (.inr (.inr ⟨_, rfl⟩))

end Sys2Proof.Machine
end

