-- ==== Sys2Proof/Laws/PerInstr.lean ====
section
/-! SUPPORT. The family `WordFits`: the encoded word of every operation fits in its format's width
(30_encoding.md rules R57 to R60). -/

namespace Sys2Proof.Laws.WordFits

/-- The word of the operation has no bit above its format's width. -/
def Statement (i : Instr) : Prop := (encode i).byte.toNat < 2 ^ (encode i).format.width

theorem bcd (v : Fin 100) (w : Width) : Statement (.bcd v w) := by show (0 : Nat) < 256; decide
theorem par (bits : List Bool) : Statement (.par bits) := by show (1 : Nat) < 256; decide
theorem encMin (n : Nat) : Statement (.encMin n) := by show (2 : Nat) < 256; decide
theorem encHour (n : Nat) : Statement (.encHour n) := by show (3 : Nat) < 256; decide
theorem encDay (n : Nat) : Statement (.encDay n) := by show (4 : Nat) < 256; decide
theorem encWday (n : Nat) : Statement (.encWday n) := by show (5 : Nat) < 256; decide
theorem encMon (n : Nat) : Statement (.encMon n) := by show (6 : Nat) < 256; decide
theorem encYear (n : Nat) : Statement (.encYear n) := by show (7 : Nat) < 256; decide
theorem frame (s : Snapshot) : Statement (.frame s) := by show (8 : Nat) < 256; decide
theorem evTick : Statement .evTick := by show (1 : Nat) < 4; decide
theorem evPoll (n : Now) : Statement (.evPoll n) := by show (2 : Nat) < 4; decide
theorem reset : Statement .reset := by show (3 : Nat) < 4; decide
theorem tickIdle (sub : BitVec 4) : Statement (.tickIdle sub) := by
  revert sub; unfold Statement encode Format.width; decide
theorem tickS0 : Statement .tickS0 := by show (16 : Nat) < 32; decide
theorem tickS1 : Statement .tickS1 := by show (17 : Nat) < 32; decide
theorem tickS2 : Statement .tickS2 := by show (18 : Nat) < 32; decide
theorem tickNop3 : Statement .tickNop3 := by show (19 : Nat) < 32; decide
theorem tickNop4 (x : BitVec 2) : Statement (.tickNop4 x) := by
  revert x; unfold Statement encode Format.width; decide
theorem tickNop8 : Statement .tickNop8 := by show (24 : Nat) < 32; decide
theorem tickS9 : Statement .tickS9 := by show (25 : Nat) < 32; decide
theorem tickRsvd10 (x : BitVec 1) : Statement (.tickRsvd10 x) := by
  revert x; unfold Statement encode Format.width; decide
theorem tickRsvd12 (x : BitVec 2) : Statement (.tickRsvd12 x) := by
  revert x; unfold Statement encode Format.width; decide
theorem seqIdle (z : BitVec 1) : Statement (.seqIdle z) := by
  revert z; unfold Statement encode Format.width; decide
theorem seqCount : Statement .seqCount := by show (2 : Nat) < 4; decide
theorem seqStart : Statement .seqStart := by show (3 : Nat) < 4; decide
theorem pollFaulted (bk : BitVec 2) : Statement (.pollFaulted bk) := by
  revert bk; unfold Statement encode Format.width; decide
theorem pollBusy (k : BitVec 1) : Statement (.pollBusy k) := by
  revert k; unfold Statement encode Format.width; decide
theorem pollSkip (n : Nat) : Statement (.pollSkip n) := by show (1 : Nat) < 8; decide
theorem pollCompose (n : Now) : Statement (.pollCompose n) := by show (0 : Nat) < 8; decide

end Sys2Proof.Laws.WordFits
end

