-- ==== Sys2Proof/Laws/Poll.lean ====
section
/-! SUPPORT. Everything a POLL can do. -/

namespace Sys2Proof.Machine

/-- Everything a POLL does: it reports a status, stores a telegram, or latches a RangeFault. -/
theorem execEvPoll_cases {now : Now} {s t : State} (h : exec (.evPoll now) s = .next t) :
    (s.fault = true ∧ t = { s with reply := .status .fault none }) ∨
    (s.fault = false ∧ s.busy = true ∧ t = { s with reply := .status .busy none }) ∨
    (s.isIdle = true ∧ now.second > 56 ∧ t = { s with reply := .status .skip none }) ∨
    (s.isIdle = true ∧ now.second ≤ 56 ∧ ∃ slots buf, telegram (snapOf now) = .ok slots ∧
      memWrite s.buf 0 slots = some buf ∧
      t = { s with buf := buf, alignCount := alignTicks now.second, armed := true,
                   reply := .status .ok (some (alignmentDelay now.second)) }) ∨
    (s.isIdle = true ∧ now.second ≤ 56 ∧ ∃ c, telegram (snapOf now) = .error c ∧
      t = { s with fault := true, faultCause := c, reply := .status .fault none }) := by
  simp only [exec, execEvPoll] at h
  split at h
  · next hf =>
    simp only [execPollFaulted, whenSelected_next, reportStatus, Host.Outcome.next.injEq] at h
    exact .inl ⟨hf, h.2.symm⟩
  · next hf =>
    have hf : s.fault = false := by simpa using hf
    split at h
    · next hb =>
      simp only [execPollBusy, whenSelected_next, reportStatus, Host.Outcome.next.injEq] at h
      exact .inr (.inl ⟨hf, hb, h.2.symm⟩)
    · next hb =>
      have hi : s.isIdle = true := by simp [State.isIdle, hf, hb]
      split at h
      · next hk =>
        simp only [execPollSkip, whenSelected_next, reportStatus, Host.Outcome.next.injEq] at h
        exact .inr (.inr (.inl ⟨hi, hk, h.2.symm⟩))
      · next hk =>
        have hk : now.second ≤ 56 := Nat.not_lt.mp hk
        simp only [execPollCompose, whenSelected_next] at h
        obtain ⟨-, h⟩ := h
        split at h
        · next slots hs =>
          unfold storeTelegram at h
          split at h
          · next buf hb => cases h; exact .inr (.inr (.inr (.inl ⟨hi, hk, slots, buf, hs, hb, rfl⟩)))
          · cases h
        · next c hs => cases h; exact .inr (.inr (.inr (.inr ⟨hi, hk, c, hs, rfl⟩)))

end Sys2Proof.Machine
end

