-- ==== Sys2Proof/Laws/Tick.lean ====
section
/-! SUPPORT. Everything the two halves of a TICK can do. -/

namespace Sys2Proof.Machine

theorem State.atSubTick_iff (s : State) (t : Nat) :
    s.atSubTick t = true ↔ s.active = true ∧ s.subTick.val = t := by
  simp [State.atSubTick]

/-- The steps of a slot: what the emitter half does in each state that has a next state. -/
theorem emitterHalf_cases {s t : State} (h : emitterHalf s = .next t) :
    (s.active = false ∧ t = s.silence) ∨
    (s.active = true ∧ s.subTick = 0 ∧ ∃ c, s.buf.read s.slotIndex = some c ∧
      t = { s with out := if c = .none then s.out else .low, subTick := 1, reply := .silent }) ∨
    (s.active = true ∧ s.subTick = 1 ∧ ∃ c, s.buf.read s.slotIndex = some c ∧
      t = { s with out := if c = .short then .high else s.out, subTick := 2, reply := .silent }) ∨
    (s.active = true ∧ s.subTick = 2 ∧ t = { s with out := .high, subTick := 3, reply := .silent }) ∨
    (s.active = true ∧ 3 ≤ s.subTick.val ∧ s.subTick.val ≤ 8 ∧
      t = { s with subTick := s.subTick + 1, reply := .silent }) ∨
    (s.active = true ∧ s.subTick = 9 ∧ s.slotIndex.val = 182 ∧
      t = { s with active := false, slotIndex := 0, subTick := 0, reply := .silent }) ∨
    (s.active = true ∧ s.subTick = 9 ∧ s.slotIndex.val ≠ 182 ∧
      t = { s with slotIndex := nextSlot s.slotIndex, subTick := 0, reply := .silent }) := by
  unfold emitterHalf at h
  split at h
  · split at h <;>
      simp only [execTickS0, execTickS1, execTickS2, execTickNop3, execTickNop4, execTickNop8, execTickS9,
        nextSubTick, whenSelected_next, withSlotCode_next,
        State.atSubTick_iff, Host.Outcome.next.injEq] at h
    case h_1 => obtain ⟨⟨ha, hs⟩, c, hc, rfl⟩ := h; exact .inr (.inl ⟨ha, Fin.ext hs, c, hc, rfl⟩)
    case h_2 => obtain ⟨⟨ha, hs⟩, c, hc, rfl⟩ := h; exact .inr (.inr (.inl ⟨ha, Fin.ext hs, c, hc, rfl⟩))
    case h_3 => obtain ⟨⟨ha, hs⟩, rfl⟩ := h; exact .inr (.inr (.inr (.inl ⟨ha, Fin.ext hs, rfl⟩)))
    case h_10 =>
      obtain ⟨⟨ha, hs⟩, rfl⟩ := h
      split
      · next hl => exact .inr (.inr (.inr (.inr (.inr (.inl ⟨ha, Fin.ext hs, hl, rfl⟩)))))
      · next hl => exact .inr (.inr (.inr (.inr (.inr (.inr ⟨ha, Fin.ext hs, hl, rfl⟩)))))
    case h_4 | h_5 | h_6 | h_7 | h_8 | h_9 =>
      obtain ⟨⟨ha, hs⟩, rfl⟩ := h
      exact .inr (.inr (.inr (.inr (.inl ⟨ha, by rw [hs] <;> decide, by rw [hs] <;> decide, rfl⟩))))
  · next ha =>
    simp only [execTickIdle, whenSelected_next, Host.Outcome.next.injEq] at h
    exact .inl ⟨by simpa using ha, h.2.symm⟩

/-- The emitter half writes `slotIndex`, `subTick`, `active`, `out` and the reply, and nothing else. -/
theorem emitterHalf_frame {s t : State} (h : emitterHalf s = .next t) :
    t = { s with slotIndex := t.slotIndex, subTick := t.subTick, active := t.active, out := t.out,
                 reply := .silent } := by
  rcases emitterHalf_cases h with ⟨_, rfl⟩ | ⟨_, _, _, _, rfl⟩ | ⟨_, _, _, _, rfl⟩ | ⟨_, _, rfl⟩ |
    ⟨_, _, _, rfl⟩ | ⟨_, _, _, rfl⟩ | ⟨_, _, _, rfl⟩ <;> rfl

/-- What the sequencer half does in each state that has a next state. -/
theorem sequencerHalf_cases {s t : State} (h : sequencerHalf s = .next t) :
    (s.armed = false ∧ t = s.silence) ∨
    (s.armed = true ∧ 2 ≤ s.alignCount.val ∧
      t = { s with alignCount := countDown s.alignCount, reply := .silent }) ∨
    (s.armed = true ∧ s.alignCount.val = 1 ∧
      t = { s with alignCount := 0, armed := false, active := true, reply := .silent }) := by
  unfold sequencerHalf at h
  split at h
  · next ha =>
    split at h
    · next hl =>
      simp only [execSeqStart, whenSelected_next, Host.Outcome.next.injEq] at h
      exact .inr (.inr ⟨ha, by simpa [State.lastCount] using hl, h.2.symm⟩)
    · next hl =>
      simp only [execSeqCount, whenSelected_next] at h
      obtain ⟨-, h⟩ := h
      split at h
      · cases h
      · next hz =>
        cases h
        have : s.alignCount.val ≠ 1 := by simpa [State.lastCount] using hl
        exact .inr (.inl ⟨ha, by omega, rfl⟩)
  · next ha =>
    simp only [execSeqIdle, whenSelected_next, Host.Outcome.next.injEq] at h
    exact .inl ⟨by simpa using ha, h.2.symm⟩

/-- The sequencer half writes `armed`, `alignCount`, `active` and the reply, and nothing else. -/
theorem sequencerHalf_frame {s t : State} (h : sequencerHalf s = .next t) :
    t = { s with armed := t.armed, alignCount := t.alignCount, active := t.active, reply := .silent } := by
  rcases sequencerHalf_cases h with ⟨_, rfl⟩ | ⟨_, _, rfl⟩ | ⟨_, _, rfl⟩ <;> rfl

/-- A TICK is its two halves, one after the other. -/
theorem execEvTick_next {s t : State} :
    exec .evTick s = .next t ↔ ∃ e, emitterHalf s = .next e ∧ sequencerHalf e = .next t := andThen_next

end Sys2Proof.Machine
end

