-- ==== Sys2Proof/Tests/Slice0.lean ====
section
/-! SUPPORT. Tests. Expected values come from spec/95_test_vectors.md (V and P numbers) and from the rules named;
the words are written out from 30_encoding.md section 6. The witnesses show that the hypotheses of every statement
in Certificates/Slice0/Obligations.lean are met together. -/

namespace Sys2Proof.Tests

open Sys2Proof Sys2Proof.Machine

/-! ### Helpers -/

/-- A result with a next state that satisfies p. -/
def after (r : Result) (p : State → Bool) : Bool :=
  match r with
  | .next s => p s
  | _ => false

/-- Refused for this reason. -/
def refusedFor (r : Result) (e : Refusal) : Bool :=
  match r with
  | .refused x => x == e
  | _ => false

/-- Decodes to this operation. -/
def reads (c : Code) (i : Instr) : Bool :=
  match decode c with
  | .ok j => j == i
  | .error _ => false

/-- Rejected for this reason. -/
def rejects (c : Code) (e : Reject) : Bool :=
  match decode c with
  | .ok _ => false
  | .error x => x == e

/-- Bits written as digits, first sent first. -/
def bits (l : List Nat) : List Bool := l.map (· == 1)

/-- Data slots written as digits, then the minute marker. -/
def slotsOf (l : List Nat) : List PulseCode := l.map (fun n => if n == 1 then .long else .short) ++ [.none]

/-- Transmitting slot i, at this subTick, with this code in the slot. -/
def sending (i : SlotIndex) (sub : SubTick) (code : PulseCode) (out : Level) : State :=
  { State.reset with active := true, slotIndex := i, subTick := sub, out := out, buf := [(i, code)] }

/-- Waiting out an alignment of n ticks. -/
def waiting (n : AlignCount) : State := { State.reset with armed := true, alignCount := n }

/-- V30's poll: 2024-03-31 01:59:30, Sunday. -/
def now30 : Now := ⟨2024, 3, 31, 1, 59, 30, 7, false⟩

/-- V30's snapshot (V21). -/
def snap30 : Snapshot := ⟨2024, 3, 31, 1, 59, 7, false⟩

/-- V30's telegram. -/
@[irreducible] def telegram30 : List PulseCode :=
  match telegram snap30 with
  | .ok t => t
  | .error _ => []

/-- The buffer that holds it. -/
@[irreducible] def buf30 : Memory := (memWrite [] 0 telegram30).getD []

/-- The state right after V30's poll from reset. -/
def aligned30 : State := { State.reset with buf := buf30, armed := true, alignCount := 280 }

/-- V30's telegram at its last tick. -/
def lastTick30 : State :=
  { State.reset with buf := buf30, active := true, slotIndex := 182, subTick := 9, out := .high }

/-- V30's telegram before its first tick. -/
def firstTick30 : State := { State.reset with buf := buf30, active := true }

/-- A latched MINUTE fault. -/
def faulted : State := { State.reset with fault := true, faultCause := .minute }

/-! ### Well-formedness: each check refuses an ill-formed term -/

theorem test_wf_skip : Instr.wellFormed (.pollSkip 56) = false ∧ Instr.wellFormed (.pollSkip 57) = true := by decide
theorem test_wf_compose : Instr.wellFormed (.pollCompose { now30 with second := 57 }) = false ∧
    Instr.wellFormed (.pollCompose { now30 with second := 56 }) = true := by decide

/-! ### Decoding: the words of section 6, bit by bit -/

theorem test_decode_ev : reads ⟨.ev, 0b01, .none⟩ .evTick ∧ reads ⟨.ev, 0b10, .now now30⟩ (.evPoll now30) ∧
    reads ⟨.ev, 0b11, .none⟩ .reset ∧ rejects ⟨.ev, 0b00, .none⟩ .noEvent ∧
    rejects ⟨.ev, 0b100, .none⟩ .wordTooWide := by decide
theorem test_decode_td : reads ⟨.td, 0b00101, .none⟩ (.tickIdle 5) ∧ reads ⟨.td, 0b10000, .none⟩ .tickS0 ∧
    reads ⟨.td, 0b10001, .none⟩ .tickS1 ∧ reads ⟨.td, 0b10010, .none⟩ .tickS2 ∧
    reads ⟨.td, 0b11001, .none⟩ .tickS9 := by decide
theorem test_decode_nop : reads ⟨.td, 0b10011, .none⟩ .tickNop3 ∧ reads ⟨.td, 0b10100, .none⟩ (.tickNop4 0) ∧
    reads ⟨.td, 0b10111, .none⟩ (.tickNop4 3) ∧ reads ⟨.td, 0b11000, .none⟩ .tickNop8 := by decide
theorem test_decode_rsvd : reads ⟨.td, 0b11010, .none⟩ (.tickRsvd10 0) ∧
    reads ⟨.td, 0b11011, .none⟩ (.tickRsvd10 1) ∧ reads ⟨.td, 0b11100, .none⟩ (.tickRsvd12 0) ∧
    reads ⟨.td, 0b11111, .none⟩ (.tickRsvd12 3) ∧ rejects ⟨.td, 0b100000, .none⟩ .wordTooWide := by decide
theorem test_decode_sq : reads ⟨.sq, 0b00, .none⟩ (.seqIdle 0) ∧ reads ⟨.sq, 0b01, .none⟩ (.seqIdle 1) ∧
    reads ⟨.sq, 0b10, .none⟩ .seqCount ∧ reads ⟨.sq, 0b11, .none⟩ .seqStart := by decide
theorem test_decode_pd : reads ⟨.pd, 0b101, .none⟩ (.pollFaulted 1) ∧ reads ⟨.pd, 0b010, .none⟩ (.pollBusy 0) ∧
    reads ⟨.pd, 0b001, .nat 57⟩ (.pollSkip 57) ∧ reads ⟨.pd, 0b000, .now now30⟩ (.pollCompose now30) ∧
    rejects ⟨.pd, 0b001, .nat 56⟩ .secondDisagrees := by decide
theorem test_decode_fn : reads ⟨.fn, 0, .digits 59 7⟩ (.bcd 59 .w7) ∧ rejects ⟨.fn, 0, .digits 100 7⟩ .bcdValueAbove99 ∧
    rejects ⟨.fn, 0, .digits 5 4⟩ .bcdWidth ∧ reads ⟨.fn, 1, .bits [true]⟩ (.par [true]) ∧
    reads ⟨.fn, 8, .snap snap30⟩ (.frame snap30) ∧ rejects ⟨.fn, 9, .none⟩ .unknownFunction := by decide
theorem test_decode_enc : reads ⟨.fn, 2, .nat 1⟩ (.encMin 1) ∧ reads ⟨.fn, 3, .nat 1⟩ (.encHour 1) ∧
    reads ⟨.fn, 4, .nat 1⟩ (.encDay 1) ∧ reads ⟨.fn, 5, .nat 1⟩ (.encWday 1) ∧
    reads ⟨.fn, 6, .nat 1⟩ (.encMon 1) ∧ reads ⟨.fn, 7, .nat 1⟩ (.encYear 1) := by decide
theorem test_table_words : decodeTableWord 8 0x10 = some .tickS0 ∧ decodeTableWord 5 0x19 = some .tickS9 ∧
    decodeTableWord 3 0x02 = some (.pollBusy 0) ∧ decodeTableWord 8 0x03 = some .reset := by decide

/-! ### The framer (V10 to V27) -/

/-- V11. -/
theorem test_bcd_59 : after (exec (.bcd 59 .w7) State.reset) (·.reply == .bits (bits [1,0,0,1,1,0,1])) := by decide
/-- V19m: the tens bit above the width is dropped. -/
theorem test_bcd_20_cut : after (exec (.bcd 20 .w5) State.reset) (·.reply == .bits (bits [0,0,0,0,0])) := by decide
/-- R71's examples. -/
theorem test_par : after (exec (.par (bits [1,0,0,1,1,0,1])) State.reset) (·.reply == .bits [false]) ∧
    after (exec (.par (bits [1,1,1,0,0,0,0])) State.reset) (·.reply == .bits [true]) := by decide
/-- R72's example. -/
theorem test_encMin : after (exec (.encMin 37) State.reset) (·.reply == .bits (bits [1,1,1,0,1,1,0])) := by decide
/-- V20c. -/
theorem test_encMin_fault : after (exec (.encMin 60) State.reset) (fun s => s.fault && s.faultCause == .minute) := by decide
/-- V20e. -/
theorem test_encHour : after (exec (.encHour 23) State.reset) (·.reply == .bits (bits [1,1,0,0,0,1])) := by decide
/-- V20f. -/
theorem test_encHour_fault : after (exec (.encHour 24) State.reset) (·.faultCause == .hour) := by decide
/-- R74's example. -/
theorem test_encDay : after (exec (.encDay 28) State.reset) (·.reply == .bits (bits [0,0,0,1,0,1])) := by decide
/-- V20i. -/
theorem test_encDay_fault : after (exec (.encDay 0) State.reset) (·.faultCause == .day) ∧
    after (exec (.encDay 32) State.reset) (·.faultCause == .day) := by decide
/-- V20j. -/
theorem test_encWday : after (exec (.encWday 0) State.reset) (·.reply == .bits (bits [1,1,1])) ∧
    after (exec (.encWday 3) State.reset) (·.reply == .bits (bits [1,1,0])) := by decide
/-- V20l. -/
theorem test_encWday_fault : after (exec (.encWday 8) State.reset) (·.faultCause == .weekday) := by decide
/-- V20n. -/
theorem test_encMon : after (exec (.encMon 12) State.reset) (·.reply == .bits (bits [0,1,0,0,1])) := by decide
/-- V20o. -/
theorem test_encMon_fault : after (exec (.encMon 0) State.reset) (·.faultCause == .month) ∧
    after (exec (.encMon 13) State.reset) (·.faultCause == .month) := by decide
/-- V20p, V20r. -/
theorem test_encYear : after (exec (.encYear 2024) State.reset) (·.reply == .bits (bits [0,0,1,0,0,1,0,0])) ∧
    after (exec (.encYear 2099) State.reset) (·.reply == .bits (bits [1,0,0,1,1,0,0,1])) := by decide
/-- V24: DST, weekday 0, both parities 1. -/
theorem test_frame : after (exec (.frame ⟨2025, 7, 6, 12, 34, 0, true⟩) State.reset) (·.reply == .slots (slotsOf
    (List.replicate 17 0 ++ [1,0,0,1] ++ [0,0,1,0,1,1,0] ++ [1] ++ [0,1,0,0,1,0] ++ [0] ++ [0,1,1,0,0,0] ++
      [1,1,1] ++ [1,1,1,0,0] ++ [1,0,1,0,0,1,0,0] ++ [1]))) := by decide +kernel
/-- B3: hour fails before weekday and month. -/
theorem test_frame_fault : after (exec (.frame ⟨2024, 13, 0, 24, 10, 9, true⟩) State.reset)
    (·.faultCause == .hour) := by decide
/-- V28c, V28e: leap day, and none in 2100. -/
theorem test_advMin : advMin ⟨2024, 2, 28, 23, 59, 3, false⟩ = ⟨2024, 2, 29, 0, 0, 4, false⟩ ∧
    advMin ⟨2100, 2, 28, 23, 59, 7, false⟩ = ⟨2100, 3, 1, 0, 0, 1, false⟩ := by decide
/-- V28b, V28h: year end, and weekday 0 coming out as 7. -/
theorem test_advMin_year : advMin ⟨2023, 12, 31, 23, 59, 7, false⟩ = ⟨2024, 1, 1, 0, 0, 1, false⟩ ∧
    advMin ⟨2025, 7, 6, 12, 34, 0, true⟩ = ⟨2025, 7, 6, 12, 35, 7, true⟩ := by decide

/-! ### POLL (V30 to V39) -/

/-- V30: status, delay, count, and frame N+1's hour 02:00 in slots 91 to 97 (`SLSSSS L`). -/
theorem test_pollCompose : after (exec (.pollCompose now30) State.reset) (fun s =>
    s.armed && s.alignCount.val == 280 && s.reply == .status .ok (some 28) && s.buf.wf &&
    memRead s.buf 91 7 == some [.short, .long, .short, .short, .short, .short, .long]) := by decide +kernel
/-- V39a: minute 60. -/
theorem test_pollCompose_fault : after (exec (.pollCompose ⟨2024, 5, 17, 10, 60, 12, 5, true⟩) State.reset) (fun s =>
    s.fault && s.faultCause == .minute && !s.armed && s.buf == [] && s.reply == .status .fault none) := by decide
/-- V38e: a skip comes before any range check. -/
theorem test_evPoll_skip : after (exec (.evPoll ⟨2024, 5, 17, 10, 75, 57, 5, true⟩) State.reset) (fun s =>
    !s.fault && s.reply == .status .skip none) := by decide
theorem test_pollSkip : after (exec (.pollSkip 57) State.reset) (·.reply == .status .skip none) ∧
    refusedFor (exec (.pollSkip 56) State.reset) .notSelected := by decide
/-- V39h. -/
theorem test_pollBusy : after (exec (.pollBusy 0) (waiting 20)) (·.reply == .status .busy none) ∧
    refusedFor (exec (.pollBusy 0) State.reset) .notSelected := by decide
/-- V39g. -/
theorem test_pollFaulted : after (exec (.pollFaulted 0) faulted) (fun s =>
    s.reply == .status .fault none && s.faultCause == .minute) := by decide

/-! ### The emitter and the sequencer (V40 to V47) -/

/-- V40a, V42a. -/
theorem test_tickS0 : after (exec .tickS0 (sending 22 0 .long .high)) (fun s => s.out == .low && s.subTick == 1) ∧
    after (exec .tickS0 (sending 1 0 .none .high)) (·.out == .high) := by decide
/-- V40b, V41b. -/
theorem test_tickS1 : after (exec .tickS1 (sending 22 1 .long .low)) (fun s => s.out == .low && s.subTick == 2) ∧
    after (exec .tickS1 (sending 0 1 .short .low)) (·.out == .high) := by decide
/-- V40c. -/
theorem test_tickS2 : after (exec .tickS2 (sending 22 2 .long .low)) (fun s => s.out == .high && s.subTick == 3) := by decide
/-- V40d. -/
theorem test_tickNop : after (exec .tickNop3 (sending 22 3 .long .high)) (·.subTick == 4) ∧
    after (exec (.tickNop4 3) (sending 22 7 .long .high)) (·.subTick == 8) ∧
    after (exec .tickNop8 (sending 22 8 .long .high)) (·.subTick == 9) := by decide
/-- V43b, V43c. -/
theorem test_tickS9 : after (exec .tickS9 (sending 181 9 .none .high)) (fun s =>
      s.slotIndex == 182 && s.subTick == 0 && s.active) ∧
    after (exec .tickS9 (sending 182 9 .short .high)) (fun s =>
      s.slotIndex == 0 && s.subTick == 0 && !s.active && s.out == .high) := by decide
/-- V45b. -/
theorem test_tickIdle : after (exec (.tickIdle 0) { State.reset with out := .high }) (fun s =>
    s.out == .high && s.subTick == 0 && s.slotIndex == 0) := by decide
theorem test_tickRsvd : refusedFor (exec (.tickRsvd10 1) (sending 3 9 .long .high)) .reservedSubTick ∧
    refusedFor (exec (.tickRsvd12 3) (sending 3 9 .long .high)) .reservedSubTick := by decide
/-- V47. -/
theorem test_seqCount : after (exec .seqCount (waiting 20)) (fun s => s.alignCount.val == 19 && s.armed) ∧
    refusedFor (exec .seqCount (waiting 0)) .alignCountZero := by decide
/-- V47. -/
theorem test_seqStart : after (exec .seqStart (waiting 1)) (fun s =>
    s.alignCount.val == 0 && !s.armed && s.active) := by decide
theorem test_seqIdle : after (exec (.seqIdle 0) State.reset) (fun s => !s.armed && !s.active) := by decide
/-- V47: the TICK that starts is idle for the emitter. -/
theorem test_evTick_start : after (exec .evTick (waiting 1)) (fun s =>
    s.active && s.subTick == 0 && s.out == .low) := by decide
/-- V44: a `None` slot entered with the line low. -/
theorem test_none_entered_low : levels 10 (sending 1 0 .none .low) =
    [.low, .low, .high, .high, .high, .high, .high, .high, .high, .high] := by decide +kernel
/-- P3: RESET after a fault, and OUT_RESET high. -/
theorem test_reset : after (exec .reset { faulted with outReset := .high }) (fun s =>
    !s.fault && s.faultCause == .noCause && s.out == .high) := by decide

/-! ### The step and the port -/

/-- R147: RESET wins; a TICK and a POLL at one instant are two steps. -/
theorem test_step_reset_wins : after (step { faulted with pending := [⟨true, true, some now30, false⟩] }) (fun s =>
    !s.fault && s.pending == []) := by decide
theorem test_step_order : after (step { faulted with pending := [⟨false, true, some now30, true⟩] }) (fun s =>
    s.reply == .status .fault none && s.pending == [⟨false, true, none, true⟩]) := by decide
theorem test_withFetchWord : after (step (State.reset.withFetchWord 8 0x19)) (fun s =>
    s.slotIndex == 1 && s.subTick == 0) := by decide
theorem test_expand : (expandItem (.align 2)).length = 20 ∧ (expandItem .slot).length = 10 := by decide
/-- 00_scope.md rule R6: the layout constants. -/
theorem test_layout : Config.hdrLen + Config.nFrames * Config.frameLen + Config.trlLen = Config.nSlots ∧
    Config.frameBase 0 = 2 ∧ Config.frameBase 1 = 62 ∧ Config.frameBase 2 = 122 ∧
    Config.lastSlot + 1 = Config.nSlots := by decide

/-! ### Witnesses: the hypotheses of each statement are met -/

theorem reset_inv (o : Level) : Inv (State.resetWith o) := by constructor <;> cases o <;> decide
theorem faulted_inv : Inv faulted := by constructor <;> decide
theorem buf30_full : bufferFull buf30 = true := by decide +kernel
theorem buf30_wf : buf30.wf = true := by decide +kernel
theorem aligned30_inv : Inv aligned30 :=
  ⟨by decide, by decide, by decide, by decide, by decide, fun _ => buf30_full, by decide, by decide, buf30_wf⟩
theorem lastTick30_inv : Inv lastTick30 :=
  ⟨by decide, by decide, by decide, by decide, by decide, fun _ => buf30_full, by decide, by decide, buf30_wf⟩
theorem firstTick30_inv : Inv firstTick30 :=
  ⟨by decide, by decide, by decide, by decide, by decide, fun _ => buf30_full, by decide, by decide, buf30_wf⟩
theorem telegram30_ok : telegram snap30 = .ok telegram30 := by unfold telegram30; rfl
theorem buf30_written : memWrite [] 0 telegram30 = some buf30 := by decide +kernel
theorem snap30_inRange : InRange snap30 := by unfold InRange; decide
theorem now30_inRange : InRange (snapOf now30) := snap30_inRange
theorem aligned30_holds : HoldsOneTelegram aligned30 := fun _ =>
  ⟨now30, telegram30, by decide, telegram30_ok, buf30_written⟩

theorem witness_DecodeOfEncode : Instr.wellFormed (.pollSkip 57) = true ∧
    Instr.wellFormed (.pollCompose { now30 with second := 56 }) = true := by decide
theorem witness_EncodeOfDecode : decode ⟨.td, 0b11111, .none⟩ = .ok (.tickRsvd12 3) := by decide
theorem witness_SignalsCarryTheSpecCodes : State.reset.out = .low ∧ (sending 0 0 .long .high).out = .high ∧
    ({ State.reset with reply := .status .ok (some 58) } : State).reply = .status .ok (some 58) := by decide
theorem witness_FieldEncoders : (59 ≤ 59 ∧ 60 > 59) ∧ (23 ≤ 23 ∧ 24 > 23) ∧ (1 ≤ 1 ∧ 31 ≤ 31 ∧ 32 > 31) ∧
    (1 ≤ 7 ∧ 7 ≤ 7 ∧ 8 > 7) ∧ (1 ≤ 12 ∧ 12 ≤ 12 ∧ 13 > 12) := by decide
theorem witness_BcdDecodesBack : (if Width.w7 = .w3 then (79 : Fin 100).val ≤ 7
      else (79 : Fin 100).val / 10 < 2 ^ (Width.w7.bits - 4)) ∧
    (if Width.w3 = .w3 then (7 : Fin 100).val ≤ 7 else (7 : Fin 100).val / 10 < 2 ^ (Width.w3.bits - 4)) := by decide
/-- For the four statements about frames and for NextMinuteCarries: the fields at both ends of their ranges. -/
theorem witness_frames : InRange ⟨2099, 12, 31, 23, 59, 7, true⟩ ∧ InRange ⟨2000, 1, 1, 0, 0, 0, false⟩ := by
  unfold InRange; decide
theorem witness_FrameReportsTheFirstFailingField :
    firstFailing ⟨2024, 13, 0, 24, 60, 9, true⟩ = some .minute ∧
    firstFailing ⟨2024, 13, 0, 24, 59, 9, true⟩ = some .hour ∧
    firstFailing ⟨2024, 13, 0, 23, 59, 9, true⟩ = some .day ∧
    firstFailing ⟨2024, 13, 31, 23, 59, 8, true⟩ = some .weekday ∧
    firstFailing ⟨2024, 0, 31, 23, 59, 7, true⟩ = some .month ∧ firstFailing snap30 = none := by decide
theorem witness_FrameDependsOnItsOperandAlone :
    exec (.frame ⟨2024, 3, 31, 1, 60, 7, false⟩) State.reset = .next faulted := rfl
theorem witness_MonthLengths : ((2024 % 4 = 0 ∧ 2024 % 100 ≠ 0) ∨ 2024 % 400 = 0) ∧
    ¬((2100 % 4 = 0 ∧ 2100 % 100 ≠ 0) ∨ 2100 % 400 = 0) := by decide
theorem witness_TelegramHasFourGaps : telegram snap30 = .ok telegram30 := telegram30_ok
theorem witness_ComposeStoresTheTelegram : State.reset.isIdle = true ∧
    ({ now30 with second := 56 } : Now).second ≤ 56 ∧ InRange (snapOf { now30 with second := 56 }) :=
  ⟨by decide, by decide, snap30_inRange⟩
theorem witness_ComposeTakesTheRangeFault : State.reset.isIdle = true ∧ (56 : Nat) ≤ 56 ∧
    firstFailing (snapOf ⟨2024, 5, 17, 10, 60, 56, 5, true⟩) = some .minute := by decide
theorem witness_PollTests : faulted.fault = true ∧
    ((waiting 20).fault = false ∧ (waiting 20).busy = true) ∧
    (State.reset.fault = false ∧ State.reset.busy = false ∧ (57 : Nat) > 56 ∧ (56 : Nat) ≤ 56) := by decide
theorem witness_DecliningPolls : (faulted.fault = true ∧ faulted.busy = (1 : BitVec 2).getLsbD 1) ∧
    ((waiting 20).fault = false ∧ (waiting 20).busy = true) ∧
    (State.reset.fault = false ∧ State.reset.busy = false ∧ (57 : Nat) > 56) := by decide
theorem witness_DeclinedPollsDoNotReadNow : faulted.fault = true ∧ lastTick30.busy = true ∧
    (57 : Nat) > 56 := by decide
theorem witness_SequencerOperations :
    (State.reset.armed = false ∧ ((0 : BitVec 1) = 1 ↔ State.reset.alignCount.val = 1)) ∧
    (({ State.reset with alignCount := 1 } : State).armed = false ∧
      ((1 : BitVec 1) = 1 ↔ ({ State.reset with alignCount := 1 } : State).alignCount.val = 1)) ∧
    ((waiting 2).armed = true ∧ (waiting 2).alignCount.val = (1 : AlignCount).val + 1 ∧ 1 ≤ (1 : AlignCount).val) ∧
    ((waiting 1).armed = true ∧ (waiting 1).alignCount.val = 1) := by decide
theorem witness_SeqCountRefusesZero : (waiting 0).armed = true ∧ (waiting 0).alignCount.val = 0 := by decide
theorem witness_AlignmentTakesItsCountOfTicks : (waiting 580).armed = true ∧ (waiting 580).active = false ∧
    1 ≤ (waiting 580).alignCount.val ∧ 579 < (waiting 580).alignCount.val := by decide
theorem witness_TickIdle : State.reset.active = false := by decide
theorem witness_FirstThreeTicks :
    ((sending 182 0 .none .low).active = true ∧ (sending 182 0 .none .low).subTick = 0 ∧
      (sending 182 0 .none .low).buf.read 182 = some .none) ∧
    ((sending 0 1 .short .low).active = true ∧ (sending 0 1 .short .low).subTick = 1 ∧
      (sending 0 1 .short .low).buf.read 0 = some .short) ∧
    ((sending 5 2 .long .low).active = true ∧ (sending 5 2 .long .low).subTick = 2) := by decide
theorem witness_NopTicks : (sending 5 3 .long .high).subTick = 3 ∧
    (sending 5 4 .long .high).subTick.val = 4 + (0 : BitVec 2).toNat ∧
    (sending 5 7 .long .high).subTick.val = 4 + (3 : BitVec 2).toNat ∧
    (sending 5 8 .long .high).subTick = 8 ∧ (sending 5 8 .long .high).active = true := by decide
theorem witness_TenthTick : lastTick30.active = true ∧ lastTick30.subTick = 9 ∧ lastTick30.slotIndex.val = 182 ∧
    (sending 181 9 .none .high).subTick = 9 ∧ (182 : SlotIndex).val = (sending 181 9 .none .high).slotIndex.val + 1 := by
  decide
theorem witness_UnwrittenSlot : ({ sending 5 0 .long .high with buf := [] } : State).active = true ∧
    ({ sending 5 0 .long .high with buf := [] } : State).buf.read 5 = none ∧
    ({ sending 5 1 .long .high with buf := [] } : State).subTick = 1 := by decide
theorem witness_OnlyTheSelectedOperationRuns :
    ((encode .tickS0).format = .td ∧ reads ⟨.td, State.reset.tdWord, .none⟩ .tickS0 = false) ∧
    ((encode .seqStart).format = .sq ∧ reads ⟨.sq, State.reset.sqWord, .none⟩ .seqStart = false) ∧
    ((encode (.pollCompose now30)).format = .pd ∧ (waiting 20).fault = false ∧ (waiting 20).busy = true ∧
      reads ⟨.pd, (waiting 20).pdWord 30, .now now30⟩ (.pollCompose now30) = false) ∧
    (waiting 20).armed = true ∧ lastTick30.active = true := by decide
/-- A PD word whose bit f is 0 does not decode to POLL.FAULTED, whatever the second and the operand. -/
theorem witness_OnlyTheSelectedOperationRuns_pd :
    ∀ (second : Nat) (a : Arg), decode ⟨.pd, State.reset.pdWord second, a⟩ ≠ .ok (.pollFaulted 0) := by
  intro second a
  have h : State.reset.pdWord second = 0 ∨ State.reset.pdWord second = 1 := by
    by_cases hk : second > Config.skipLimit <;> simp [State.pdWord, hk] <;> decide
  rcases h with h | h <;> rw [h] <;> cases a <;> simp [decode, decodePd] <;> split <;> simp
theorem witness_TickHalves :
    ((sending 182 9 .short .high).armed = false ∧ (sending 182 9 .short .high).subTick.val ≤ 9 ∧
      ((sending 182 9 .short .high).buf.read 182).isSome = true) ∧
    ((waiting 1).active = false ∧ 1 ≤ (waiting 1).alignCount.val) := by decide
theorem witness_OneSlot : (sending 182 0 .long .low).active = true ∧ (sending 182 0 .long .low).armed = false ∧
    (sending 182 0 .long .low).subTick = 0 ∧ (sending 182 0 .long .low).buf.read 182 = some .long ∧
    (sending 181 0 .none .high).slotIndex.val ≠ 182 ∧ (sending 181 0 .none .high).buf.read 181 = some .none := by
  decide
theorem witness_Transmission : firstTick30.active = true ∧ firstTick30.armed = false ∧ firstTick30.slotIndex = 0 ∧
    firstTick30.subTick = 0 ∧ bufferFull firstTick30.buf = true :=
  ⟨rfl, rfl, rfl, rfl, buf30_full⟩
theorem witness_TransmissionLowTime : firstTick30.active = true ∧ telegram snap30 = .ok telegram30 ∧
    memWrite [] 0 telegram30 = some firstTick30.buf := ⟨rfl, telegram30_ok, buf30_written⟩
/-- For the statements on one TICK: idle, the end of a transmission, and a start. -/
theorem witness_oneTick : (∃ t, exec .evTick State.reset = .next t) ∧
    (∃ t, exec .evTick lastTick30 = .next t ∧ lastTick30.active = true ∧ t.active = false) ∧
    (∃ t, exec .evTick (waiting 1) = .next t ∧ (waiting 1).active = false ∧ t.active = true) ∧
    (∃ t, exec .evTick (sending 5 2 .long .low) = .next t ∧ t.out ≠ (sending 5 2 .long .low).out) :=
  ⟨⟨_, rfl⟩, ⟨_, rfl, rfl, rfl⟩, ⟨_, rfl, rfl, rfl⟩, ⟨_, rfl, by decide⟩⟩
/-- For the statements on one POLL or RESET. -/
theorem witness_onePoll : (∃ t, exec (.evPoll now30) faulted = .next t) ∧
    (∃ t, exec (.evPoll { now30 with second := 57 }) State.reset = .next t) ∧ (∃ t, exec .reset faulted = .next t) :=
  ⟨⟨_, rfl⟩, ⟨_, rfl⟩, ⟨_, rfl⟩⟩
theorem witness_StepExecutes : ({ faulted with pending := [Instant.ofTick] } : State).fetch =
    some (⟨.ev, 0b01, .none⟩, faulted) ∧ decode ⟨.ev, 0b01, .none⟩ = .ok .evTick := ⟨rfl, rfl⟩
theorem witness_StepServes :
    ({ State.reset with pending := [⟨false, true, some now30, true⟩] } : State).pending =
      ⟨false, true, some now30, true⟩ :: [] ∧ State.reset.pending = [] := ⟨rfl, rfl⟩
theorem witness_SimultaneousReset :
    ({ faulted with pending := [⟨true, true, some now30, false⟩] } : State).pending =
      ⟨true, true, some now30, false⟩ :: [] ∧ (⟨true, true, some now30, false⟩ : Instant).reset = true := ⟨rfl, rfl⟩
theorem witness_PollAndTickOrder :
    (Inv faulted ∧ faulted.active = false ∧ faulted.isIdle = false) ∧
    (Inv lastTick30 ∧ lastTick30.active = true ∧ lastTick30.slotIndex.val = 182 ∧ lastTick30.subTick.val = 9) ∧
    (Inv State.reset ∧ State.reset.isIdle = true ∧ now30.second ≤ 56 ∧ InRange (snapOf now30)) :=
  ⟨⟨faulted_inv, rfl, rfl⟩, ⟨lastTick30_inv, rfl, rfl, rfl⟩, ⟨reset_inv _, rfl, by decide, now30_inRange⟩⟩
theorem witness_FaultIsLeftByResetOnly : Inv faulted ∧ faulted.fault = true := ⟨faulted_inv, rfl⟩
theorem witness_SelectedOperation :
    (Instr.wellFormed (.tickIdle 9) = true ∧ (encode (.tickIdle 9)).format ≠ .fn ∧
      namesReservedSubTick (.tickIdle 9) = false) ∧
    (Instr.wellFormed (.pollSkip 57) = true ∧ (encode (.pollSkip 57)).format ≠ .fn ∧
      namesReservedSubTick (.pollSkip 57) = false) ∧
    namesReservedSubTick (.tickIdle 10) = true ∧ namesReservedSubTick (.tickRsvd12 3) = true := by decide
theorem witness_EveryStepKeeps : ∃ s t, Inv s ∧ HoldsOneTelegram s ∧ s.armed = true ∧ step s = .next t :=
  ⟨{ aligned30 with pending := [Instant.ofTick] }, _,
    ⟨by decide, by decide, by decide, by decide, by decide, fun _ => buf30_full, by decide, by decide, buf30_wf⟩,
    aligned30_holds, rfl, rfl⟩
theorem witness_NoStepStops : Inv firstTick30 ∧ Inv lastTick30 ∧ Inv aligned30 ∧ Inv faulted :=
  ⟨firstTick30_inv, lastTick30_inv, aligned30_inv, faulted_inv⟩
theorem witness_WholeCycle : Inv State.reset ∧ State.reset.isIdle = true ∧
    ({ now30 with second := 56 } : Now).second ≤ 56 ∧ InRange (snapOf { now30 with second := 56 }) :=
  ⟨reset_inv _, rfl, by decide, snap30_inRange⟩

end Sys2Proof.Tests
end

section
/-! PROOF. R3: a TICK and a POLL share the alignment wait and the reply; the position, `active` and `out` are the
TICK's alone, the buffer and the fault registers the POLL's alone. One frame lemma per event says which registers
it can write. -/

namespace Sys2Proof.Machine

/-- The two halves of a TICK write the emitter's registers, the alignment wait and the reply, and nothing else. -/
theorem execEvTick_frame {s t : State} (h : exec .evTick s = .next t) :
    t = { s with slotIndex := t.slotIndex, subTick := t.subTick, active := t.active, out := t.out,
                 armed := t.armed, alignCount := t.alignCount, reply := .silent } := by
  obtain ⟨e, he, hq⟩ := execEvTick_next.mp h
  rw [sequencerHalf_frame hq, emitterHalf_frame he]

/-- A POLL writes the buffer, the alignment wait, the fault registers and the reply, and nothing else. -/
theorem execEvPoll_frame {now : Now} {s t : State} (h : exec (.evPoll now) s = .next t) :
    t = { s with buf := t.buf, armed := t.armed, alignCount := t.alignCount, fault := t.fault,
                 faultCause := t.faultCause, reply := t.reply } := by
  rcases execEvPoll_cases h with ⟨_, rfl⟩ | ⟨_, _, rfl⟩ | ⟨_, _, rfl⟩ | ⟨_, _, _, _, _, _, rfl⟩ |
    ⟨_, _, _, _, rfl⟩ <;> rfl

/-- Settles O44: the frames of a TICK and of a POLL, read off field by field. -/
theorem emitterAndComposerKeepApart : Obligations.EmitterAndComposerKeepApart := by
  intro s t
  constructor
  · intro h
    rw [execEvTick_frame h]
    exact ⟨rfl, rfl, rfl, rfl, rfl, rfl⟩
  · intro now h
    rw [execEvPoll_frame h]
    exact ⟨rfl, rfl, rfl, rfl, rfl, rfl⟩

end Sys2Proof.Machine
end

section
/-! PROOF. R70 and R71: the bit of the packed byte at each place is a bit of one of the two digits, and the parity
bit has the value of the number of ones modulo 2. -/

namespace Sys2Proof.Machine

theorem execBcd_eq (v : Fin 100) (w : Width) (s : State) :
    exec (.bcd v w) s = .next { s with reply := .bits (bcdBits v.val w) } := rfl

theorem execPar_eq (bits : List Bool) (s : State) :
    exec (.par bits) s = .next { s with reply := .bits [parity bits] } := rfl

@[simp] theorem parity_nil : parity [] = false := rfl

@[simp] theorem parity_cons (b : Bool) (bits : List Bool) : parity (b :: bits) = (b ^^ parity bits) := by
  rw [parity, List.foldl_cons, Bool.xor_comm false b, List.foldl_assoc, parity]

/-- The parity bit as a number is the number of ones modulo 2. -/
theorem parity_toNat (bits : List Bool) : (parity bits).toNat = bits.count true % 2 := by
  induction bits with
  | nil => rfl
  | cons b bits ih =>
    cases b with
    | false => simpa using ih
    | true =>
      have hnot : (!parity bits).toNat = 1 - (parity bits).toNat := by cases parity bits <;> rfl
      rw [parity_cons, Bool.true_xor, hnot, ih, List.count_cons_self]
      omega

/-- R71: the ones of a sequence and its parity bit together are even in number. -/
theorem count_true_add_parity_even (bits : List Bool) :
    (bits.count true + (parity bits).toNat) % 2 = 0 := by
  rw [parity_toNat]
  omega

/-- Settles O6: the bit is the parity of the sequence. -/
theorem parMakesTheCountEven : Obligations.ParMakesTheCountEven := by
  intro bits s
  refine ⟨parity bits, execPar_eq bits s, ?_⟩
  simpa [Bool.toNat, Bool.cond_eq_ite] using count_true_add_parity_even bits

/-- A number below 16 written in a nibble keeps all its bits. -/
theorem nibble_getLsbD {n : Nat} (h : n < 16) (k : Nat) : (BitVec.ofNat 4 n).getLsbD k = n.testBit k := by
  rw [BitVec.getLsbD, BitVec.toNat_ofNat, Nat.mod_eq_of_lt h]

/-- R56: the low nibble of the packed byte is the units digit, the high nibble the tens digit. -/
theorem packedBcd_getLsbD {v : Nat} (h : v < 100) (k : Nat) :
    (packedBcd v).getLsbD k = if k < 4 then (v % 10).testBit k else (v / 10).testBit (k - 4) := by
  have hunits : v % 10 < 16 := by omega
  have htens : v / 10 < 16 := by omega
  rw [packedBcd, BitVec.getLsbD_append, nibble_getLsbD hunits, nibble_getLsbD htens]

/-- Settles O5: each bit of the answer is read off the packed byte. -/
theorem bcdReturnsUnitsThenTens : Obligations.BcdReturnsUnitsThenTens := by
  intro v w s
  have hbits : (packedBcd v.val).getLsbD =
      fun k => if k < 4 then (v.val % 10).testBit k else (v.val / 10).testBit (k - 4) :=
    funext (packedBcd_getLsbD v.isLt)
  rw [execBcd_eq, bcdBits, hbits]

end Sys2Proof.Machine
end

section
/-! PROOF. R87 and R81 to R86. FRAME answers what `frame` computes from its operand. In range that is a row of
parts whose lengths are fixed, so each part starts where the lengths of the parts before it add up to. -/

namespace Sys2Proof.Machine

theorem execFrame_ok {p : Snapshot} {f : List PulseCode} (h : frame p = .ok f) (s : State) :
    exec (.frame p) s = .next { s with reply := .slots f } := by
  simp only [exec, execFrame, h]

theorem execFrame_error {p : Snapshot} {c : Cause} (h : frame p = .error c) (s : State) :
    exec (.frame p) s = .next { s with fault := true, faultCause := c, reply := .silent } := by
  simp only [exec, execFrame, h, raiseRangeFault]

/-- Settles O14: `frame` does not see the state, and in both of its outcomes the reply is fixed by it. -/
theorem frameDependsOnItsOperandAlone : Obligations.FrameDependsOnItsOperandAlone := by
  intro p s₁ s₂ t₁ h
  cases hf : frame p with
  | ok f =>
    rw [execFrame_ok hf] at h
    cases h
    exact ⟨_, execFrame_ok hf s₂, rfl⟩
  | error c =>
    rw [execFrame_error hf] at h
    cases h
    exact ⟨_, execFrame_error hf s₂, rfl⟩

/-- The bits that the date parity covers, slots 36 to 57 (41_minute_frame.md rule R85). -/
def dateBits (p : Snapshot) : List Bool :=
  bcdBits p.day .w6 ++ bcdBits (normWeekday p.weekday) .w3 ++ bcdBits p.month .w5 ++ bcdBits (p.year % 100) .w8

/-- The parts of a frame in the order of their slots: 0 to 16, 17 to 20, then the fields with their parities. -/
theorem frameSlots_eq (p : Snapshot) : frameSlots p =
    List.replicate 17 .short ++ ([codeOfBit p.isDst, codeOfBit !p.isDst, .short, .long] ++
      ((bcdBits p.minute .w7).map codeOfBit ++ ([codeOfBit (parity (bcdBits p.minute .w7))] ++
      ((bcdBits p.hour .w6).map codeOfBit ++ ([codeOfBit (parity (bcdBits p.hour .w6))] ++
      ((bcdBits p.day .w6).map codeOfBit ++ ((bcdBits (normWeekday p.weekday) .w3).map codeOfBit ++
      ((bcdBits p.month .w5).map codeOfBit ++ ((bcdBits (p.year % 100) .w8).map codeOfBit ++
      [codeOfBit (parity (dateBits p)), .none]))))))))) := by
  simp [frameSlots, frameBits, encYear, dateBits, codeOfBit]

/-- Passing a whole part: what is dropped beyond it is dropped from the rest. -/
theorem drop_append_of_length_le {α : Type} {l₁ l₂ : List α} {n : Nat} (h : l₁.length ≤ n) :
    (l₁ ++ l₂).drop n = l₂.drop (n - l₁.length) := by
  rw [List.drop_append, List.drop_of_length_le h, List.nil_append]

/-- R81: slots 0 to 16 are in the first part. -/
theorem frameSlots_lead (p : Snapshot) {i : Nat} (h : i ≤ 16) : (frameSlots p)[i]? = some .short := by
  have hi : i < 17 := by omega
  rw [frameSlots_eq, List.getElem?_append_left (by simpa using hi), List.getElem?_replicate_of_lt hi]

/-- R82: the pair of slots 17 and 18. -/
theorem frameSlots_dst (p : Snapshot) :
    (frameSlots p)[17]? = some (if p.isDst then .long else .short) ∧
    (frameSlots p)[18]? = some (if p.isDst then .short else .long) := by
  cases hd : p.isDst <;> simp [frameSlots_eq, codeOfBit, hd]

/-- R81, R86: the slots that hold the same code in every frame. -/
theorem frameSlots_constants (p : Snapshot) : (frameSlots p)[19]? = some .short ∧
    (frameSlots p)[20]? = some .long ∧ (frameSlots p)[59]? = some .none := by
  simp [frameSlots_eq, Width.bits]

/-- R83 to R85: the parity slots. -/
theorem frameSlots_parities (p : Snapshot) :
    (frameSlots p)[28]? = some (codeOfBit (parity (bcdBits p.minute .w7))) ∧
    (frameSlots p)[35]? = some (codeOfBit (parity (bcdBits p.hour .w6))) ∧
    (frameSlots p)[58]? = some (codeOfBit (parity (dateBits p))) := by
  simp [frameSlots_eq, Width.bits]

/-- R80: the fields, each found by passing the parts before it (so the parts are kept whole: no `cons_append`). -/
theorem frameSlots_fields (p : Snapshot) :
    ((frameSlots p).drop 21).take 7 = (bcdBits p.minute .w7).map codeOfBit ∧
    ((frameSlots p).drop 29).take 6 = (bcdBits p.hour .w6).map codeOfBit ∧
    ((frameSlots p).drop 36).take 6 = (bcdBits p.day .w6).map codeOfBit ∧
    ((frameSlots p).drop 42).take 3 = (bcdBits (normWeekday p.weekday) .w3).map codeOfBit ∧
    ((frameSlots p).drop 45).take 5 = (bcdBits p.month .w5).map codeOfBit ∧
    ((frameSlots p).drop 50).take 8 = (bcdBits (p.year % 100) .w8).map codeOfBit := by
  refine ⟨?_, ?_, ?_, ?_, ?_, ?_⟩ <;>
    simp (disch := simp [Width.bits]) [frameSlots_eq, drop_append_of_length_le, Width.bits,
      -List.cons_append]

/-- Settles O9: a snapshot in range is answered with its frame, whose parts stand at the slots of the table. -/
theorem frameHasTheTableLayout : Obligations.FrameHasTheTableLayout := by
  intro p s h
  obtain ⟨hdst, hstd⟩ := frameSlots_dst p
  obtain ⟨h19, h20, h59⟩ := frameSlots_constants p
  obtain ⟨hparMin, hparHour, hparDate⟩ := frameSlots_parities p
  obtain ⟨hmin, hhour, hday, hwday, hmon, hyear⟩ := frameSlots_fields p
  exact ⟨frameSlots p, execFrame_ok (frame_ok h) s, frameSlots_length p, fun _ => frameSlots_lead p, hdst, hstd,
    h19, h20, hmin, hparMin, hhour, hparHour, hday, hwday, hmon, hyear, hparDate, h59⟩

end Sys2Proof.Machine
end

section
/-! PROOF. R105 and R108 to R110. In a state that selects it, each declining operation is its report and nothing
more; a POLL runs the operation its tests select, so its answers in the declining states are theirs. -/

namespace Sys2Proof.Machine

/-- Neither fault nor busy is what `isIdle` tests. -/
theorem isIdle_of_not_fault_of_not_busy {s : State} (hf : s.fault = false) (hb : s.busy = false) :
    s.isIdle = true := by
  rw [State.isIdle, hf, hb]
  rfl

/-- A one-bit field of a word is the bit at that place. -/
theorem extractLsb'_one_eq_ofBool {n : Nat} (x : BitVec n) (i : Nat) :
    x.extractLsb' i 1 = BitVec.ofBool (x.getLsbD i) := by
  refine BitVec.eq_of_getLsbD_eq fun j hj => ?_
  obtain rfl : j = 0 := by omega
  simp

/-- R60: of the bits b and k of a PD word, bit b stands at place 1. -/
theorem ofBool_append_ofBool_getLsbD_one (b k : Bool) : (BitVec.ofBool b ++ BitVec.ofBool k).getLsbD 1 = b := by
  simp only [BitVec.getLsbD_append, BitVec.getLsbD_ofBool, Nat.lt_irrefl, if_false, Nat.sub_self, decide_true,
    Bool.true_and]

/-- R110: with a fault latched and the word's bit b that of the state, POLL.FAULTED only reports FAULT. -/
theorem execPollFaulted_of_selected {s : State} {bk : BitVec 2} (hf : s.fault = true)
    (hb : s.busy = bk.getLsbD 1) :
    exec (.pollFaulted bk) s = .next { s with reply := .status .fault none } := by
  have hsel : (s.fault && BitVec.ofBool s.busy == bk.extractLsb' 1 1) = true := by
    rw [hf, hb, extractLsb'_one_eq_ofBool, beq_self_eq_true, Bool.true_and]
  rw [exec, execPollFaulted, hsel, whenSelected_true, reportStatus]

/-- R109: without a fault, while a telegram waits or is sent, POLL.BUSY only reports BUSY. -/
theorem execPollBusy_of_selected {s : State} (k : BitVec 1) (hf : s.fault = false) (hb : s.busy = true) :
    exec (.pollBusy k) s = .next { s with reply := .status .busy none } := by
  have hsel : (!s.fault && s.busy) = true := by rw [hf, hb]; rfl
  rw [exec, execPollBusy, hsel, whenSelected_true, reportStatus]

/-- R108: in an idle state, after second 56, POLL.SKIP only reports SKIP. -/
theorem execPollSkip_of_selected {s : State} {second : Nat} (hi : s.isIdle = true) (hk : second > 56) :
    exec (.pollSkip second) s = .next { s with reply := .status .skip none } := by
  have hsel : (s.isIdle && decide (second > Config.skipLimit)) = true := by
    rw [hi, decide_eq_true hk, Bool.true_and]
  rw [exec, execPollSkip, hsel, whenSelected_true, reportStatus]

/-- R105: a POLL is the operation selected by the tests fault, busy and skip, in this order. -/
theorem execEvPoll_eq (now : Now) (s : State) :
    exec (.evPoll now) s =
      if s.fault then exec (.pollFaulted (BitVec.ofBool s.busy ++ BitVec.ofBool (decide (now.second > 56)))) s
      else if s.busy then exec (.pollBusy (BitVec.ofBool (decide (now.second > 56)))) s
      else if now.second > 56 then exec (.pollSkip now.second) s
      else exec (.pollCompose now) s := rfl

/-- Settles O23: each of the three, in the states that select it, is its report. -/
theorem decliningPollsChangeNoState : Obligations.DecliningPollsChangeNoState := by
  intro s
  exact ⟨fun _ hf hb => execPollFaulted_of_selected hf hb,
    fun k hf hb => execPollBusy_of_selected k hf hb,
    fun _ hf hb hk => execPollSkip_of_selected (isIdle_of_not_fault_of_not_busy hf hb) hk⟩

/-- Settles O21: the tests select an operation, and the declining ones are their reports. -/
theorem pollTestsFaultThenBusyThenSkip : Obligations.PollTestsFaultThenBusyThenSkip := by
  intro now s
  rw [execEvPoll_eq]
  refine ⟨fun hf => ?_, fun hf hb => ?_, fun hf hb hk => ?_, fun hf hb hk => ?_⟩
  · rw [if_pos hf, execPollFaulted_of_selected hf (ofBool_append_ofBool_getLsbD_one _ _).symm]
  · rw [if_neg (Bool.eq_false_iff.mp hf), if_pos hb, execPollBusy_of_selected _ hf hb]
  · rw [if_neg (Bool.eq_false_iff.mp hf), if_neg (Bool.eq_false_iff.mp hb), if_pos hk,
      execPollSkip_of_selected (isIdle_of_not_fault_of_not_busy hf hb) hk]
  · rw [if_neg (Bool.eq_false_iff.mp hf), if_neg (Bool.eq_false_iff.mp hb), if_neg (Nat.not_lt.mpr hk)]

end Sys2Proof.Machine
end

section
/-! PROOF. R121 to R126 and R133. Each operation of the emitter half, in the states that select it, is its effect;
the line `out` is written only in the cases of `emitterHalf_cases` where `subTick` is 0, 1 or 2. -/

namespace Sys2Proof.Machine

/-- An operation of an active tick runs in the states at its `subTick`. -/
theorem whenSelected_atSubTick {s : State} {t : Nat} (ha : s.active = true) (ht : s.subTick.val = t) (r : Result) :
    whenSelected (s.atSubTick t) r = r := by
  rw [(State.atSubTick_iff s t).mpr ⟨ha, ht⟩, whenSelected_true]

/-- Where the slot holds a value, it is the code that the operation gets. -/
theorem withSlotCode_of_read {s : State} {c : PulseCode} (h : s.buf.read s.slotIndex = some c)
    (f : PulseCode → State) : withSlotCode s f = .next (f c) :=
  withSlotCode_next.mpr ⟨c, h, rfl⟩

/-- R121: with `active = 0` the word of the state's own `subTick` selects TICK.IDLE, which changes no register. -/
theorem execTickIdle_of_selected {s : State} {sub : BitVec 4} (ha : s.active = false)
    (ht : s.subTick.val = sub.toNat) : exec (.tickIdle sub) s = .next { s with reply := .silent } := by
  have hsel : (!s.active && s.subTick.val == sub.toNat) = true := by rw [ha, ht, beq_self_eq_true]; rfl
  rw [exec, execTickIdle, hsel, whenSelected_true, State.silence]

/-- Settles O28: the word with the state's own `subTick` selects TICK.IDLE. -/
theorem tickIdleChangesNothing : Obligations.TickIdleChangesNothing :=
  fun _ _ ha hsub => execTickIdle_of_selected ha hsub.symm

/-- R122: the pulse starts unless the slot is `None`. -/
theorem execTickS0_of_selected {s : State} {code : PulseCode} (ha : s.active = true) (ht : s.subTick.val = 0)
    (hc : s.buf.read s.slotIndex = some code) :
    exec .tickS0 s = .next { s with
      out := (if code = .none then s.out else .low), subTick := 1, reply := .silent } := by
  rw [exec, execTickS0, whenSelected_atSubTick ha ht, withSlotCode_of_read hc]

/-- R123: a `Short` pulse ends. -/
theorem execTickS1_of_selected {s : State} {code : PulseCode} (ha : s.active = true) (ht : s.subTick.val = 1)
    (hc : s.buf.read s.slotIndex = some code) :
    exec .tickS1 s = .next { s with
      out := (if code = .short then .high else s.out), subTick := 2, reply := .silent } := by
  rw [exec, execTickS1, whenSelected_atSubTick ha ht, withSlotCode_of_read hc]

/-- R124: the line goes high, and the buffer is not read. -/
theorem execTickS2_of_selected {s : State} (ha : s.active = true) (ht : s.subTick.val = 2) :
    exec .tickS2 s = .next { s with out := .high, subTick := 3, reply := .silent } := by
  rw [exec, execTickS2, whenSelected_atSubTick ha ht]

/-- Settles O29: the three operations, each at its `subTick`. -/
theorem firstThreeTicksOfASlot : Obligations.FirstThreeTicksOfASlot := by
  intro s code ha
  exact ⟨fun ht hc => execTickS0_of_selected ha (congrArg Fin.val ht) hc,
    fun ht hc => execTickS1_of_selected ha (congrArg Fin.val ht) hc,
    fun ht => execTickS2_of_selected ha (congrArg Fin.val ht)⟩

/-- R125: the effect of TICK.NOP at `subTick` t, where `u` is the number after t, so that the sum does not wrap. -/
theorem nextSubTick_of_selected {s : State} {t : Nat} {u : SubTick} (ha : s.active = true)
    (ht : s.subTick.val = t) (hu : u.val = t + 1) :
    whenSelected (s.atSubTick t) (nextSubTick s) = .next { s with subTick := u, reply := .silent } := by
  have hsum : s.subTick + 1 = u := by
    apply Fin.ext
    rw [hu, ← ht]
    exact Fin.val_add_one_of_lt' (by omega)
  rw [whenSelected_atSubTick ha ht, nextSubTick, hsum]

/-- Settles O30: the three rows of TICK.NOP select different values of `subTick` and share one effect. -/
theorem nopTicksOnlyCount : Obligations.NopTicksOnlyCount := by
  intro s ha
  refine ⟨fun ht => ?_, fun x ht => ?_, fun ht => ?_⟩
  · exact nextSubTick_of_selected ha (congrArg Fin.val ht) rfl
  · have hnext : 5 + x.toNat = 4 + x.toNat + 1 := by omega
    exact nextSubTick_of_selected ha ht hnext
  · exact nextSubTick_of_selected ha (congrArg Fin.val ht) rfl

/-- The slot after slot i is the one whose number is one higher. -/
theorem nextSlot_eq {i j : SlotIndex} (h : j.val = i.val + 1) : nextSlot i = j := by
  have hi : i.val + 1 < 183 := h ▸ j.isLt
  rw [nextSlot, dif_pos hi]
  exact Fin.ext h.symm

/-- R126: what TICK.S9 does at the tenth tick of a slot. -/
theorem execTickS9_of_selected {s : State} (ha : s.active = true) (ht : s.subTick.val = 9) :
    exec .tickS9 s = .next
      (if s.slotIndex.val = 182 then { s with active := false, slotIndex := 0, subTick := 0, reply := .silent }
       else { s with slotIndex := nextSlot s.slotIndex, subTick := 0, reply := .silent }) := by
  rw [exec, execTickS9, whenSelected_atSubTick ha ht]

/-- Settles O31: slot 182 ends the transmission, and a slot with a slot after it is below 182. -/
theorem tenthTickAdvancesOrEnds : Obligations.TenthTickAdvancesOrEnds := by
  intro s ha ht
  rw [execTickS9_of_selected ha (congrArg Fin.val ht)]
  refine ⟨fun hlast => by rw [if_pos hlast], fun j hj => ?_⟩
  have hnot : s.slotIndex.val ≠ 182 := by omega
  rw [if_neg hnot, nextSlot_eq hj]

/-- R133: from `subTick` 3 on, and with `active = 0`, the emitter half leaves the line as it is. -/
theorem emitterHalf_out_changes {s t : State} (h : emitterHalf s = .next t) (hout : t.out ≠ s.out) :
    s.active = true ∧ s.subTick.val ≤ 2 := by
  rcases emitterHalf_cases h with ⟨_, rfl⟩ | ⟨ha, hs, _⟩ | ⟨ha, hs, _⟩ | ⟨ha, hs, _⟩ |
    ⟨_, _, _, rfl⟩ | ⟨_, _, _, rfl⟩ | ⟨_, _, _, rfl⟩
  · exact absurd rfl hout
  · exact ⟨ha, by rw [hs]; decide⟩
  · exact ⟨ha, by rw [hs]; decide⟩
  · exact ⟨ha, by rw [hs]; decide⟩
  · exact absurd rfl hout
  · exact absurd rfl hout
  · exact absurd rfl hout

/-- The line after a TICK is the one its emitter half leaves: the sequencer half does not write it. -/
theorem execEvTick_out {s t : State} (h : exec .evTick s = .next t) :
    ∃ e, emitterHalf s = .next e ∧ t.out = e.out := by
  obtain ⟨e, he, hq⟩ := execEvTick_next.mp h
  exact ⟨e, he, by rw [sequencerHalf_frame hq]⟩

/-- Settles O42: of a TICK only the emitter half writes the line, and a POLL's frame does not hold it. -/
theorem outChangesOnlyInTheFirstTicks : Obligations.OutChangesOnlyInTheFirstTicks := by
  intro s t
  constructor
  · intro h hout
    obtain ⟨e, he, hte⟩ := execEvTick_out h
    exact emitterHalf_out_changes he (hte ▸ hout)
  · intro now h
    rw [execEvPoll_frame h]

end Sys2Proof.Machine
end

section
/-! PROOF. R141 with R89: the encoders are tried in the order of `firstFailing`, so the first field out of range gives
the cause, which POLL.COMPOSE latches and writes nothing else. -/

namespace Sys2Proof.Machine

theorem encMin_error {n : Nat} (h : n > 59) : encMin n = .error .minute := if_pos h
theorem encHour_error {n : Nat} (h : n > 23) : encHour n = .error .hour := if_pos h
theorem encDay_error {n : Nat} (h : n = 0 ∨ n > 31) : encDay n = .error .day := if_pos (by omega)
theorem encWday_error {n : Nat} (h : n > 7) : encWday n = .error .weekday := if_pos h
theorem encMon_error {n : Nat} (h : n = 0 ∨ n > 12) : encMon n = .error .month := if_pos (by omega)

/-- R89: a frame with a field out of range reports the first one; the fields before it encode. -/
theorem frame_error_of_firstFailing {p : Snapshot} {c : Cause} (h : firstFailing p = some c) :
    frame p = .error c := by
  unfold firstFailing at h
  split at h
  · next hmin =>
    cases h
    simp only [frame, encMin_error hmin]
    rfl
  next hmin =>
  have okMin := encMin_ok (n := p.minute) (by omega)
  split at h
  · next hhour =>
    cases h
    simp only [frame, okMin, encHour_error hhour]
    rfl
  next hhour =>
  have okHour := encHour_ok (n := p.hour) (by omega)
  split at h
  · next hday =>
    cases h
    simp only [frame, okMin, okHour, encDay_error hday]
    rfl
  next hday =>
  have okDay := encDay_ok (n := p.day) (by omega) (by omega)
  split at h
  · next hwday =>
    cases h
    simp only [frame, okMin, okHour, okDay, encWday_error hwday]
    rfl
  next hwday =>
  have okWday := encWday_ok (n := p.weekday) (by omega)
  split at h
  · next hmon =>
    cases h
    simp only [frame, okMin, okHour, okDay, okWday, encMon_error hmon]
    rfl
  · cases h

/-- R141: in the states that select it, POLL.COMPOSE with no telegram latches the cause and reports FAULT. -/
theorem execPollCompose_of_telegram_error {now : Now} {s : State} {c : Cause} (hi : s.isIdle = true)
    (hk : now.second ≤ 56) (h : telegram (snapOf now) = .error c) :
    exec (.pollCompose now) s =
      .next { s with fault := true, faultCause := c, reply := .status .fault none } := by
  have hsel : (s.isIdle && decide (now.second ≤ Config.skipLimit)) = true := by
    rw [hi, decide_eq_true hk, Bool.true_and]
  simp only [exec, execPollCompose, hsel, whenSelected_true, h, raiseRangeFault]

/-- Settles O20: the telegram's error is that of its first frame, whose first failing field is the cause. -/
theorem composeTakesTheRangeFault : Obligations.ComposeTakesTheRangeFault :=
  fun _ _ _ hi hk hc =>
    execPollCompose_of_telegram_error hi hk (telegram_error_of_frame_error (frame_error_of_firstFailing hc))

end Sys2Proof.Machine
end

section
/-! PROOF. R148 and R149. With a fault latched nothing waits and nothing is sent (`Inv.faultQuiescent`), so both halves
of a TICK are idle; a POLL stops at its first test. -/

namespace Sys2Proof.Machine

/-- R121: the emitter half of an inactive state selects TICK.IDLE by the state's own `subTick`. -/
theorem emitterHalf_of_inactive {s : State} (ha : s.active = false) : emitterHalf s = .next s.silence := by
  have hsub : s.subTick.val = (BitVec.ofNat 4 s.subTick.val).toNat := by
    rw [BitVec.toNat_ofNat, Nat.mod_eq_of_lt (by omega)]
  rw [emitterHalf, if_neg (Bool.eq_false_iff.mp ha)]
  exact execTickIdle_of_selected ha hsub

/-- R113: the sequencer half of an unarmed state changes no register. -/
theorem sequencerHalf_of_unarmed {s : State} (hr : s.armed = false) : sequencerHalf s = .next s.silence := by
  have hsel : (!s.armed && BitVec.ofBool s.lastCount == BitVec.ofBool s.lastCount) = true := by
    rw [hr, beq_self_eq_true]
    rfl
  rw [sequencerHalf, if_neg (Bool.eq_false_iff.mp hr), execSeqIdle, hsel, whenSelected_true]

/-- A TICK with no telegram waiting and none being sent changes no register. -/
theorem execEvTick_of_quiescent {s : State} (hr : s.armed = false) (ha : s.active = false) :
    exec .evTick s = .next s.silence :=
  execEvTick_next.mpr ⟨s.silence, emitterHalf_of_inactive ha, sequencerHalf_of_unarmed hr⟩

/-- R110: with a fault latched every POLL only reports FAULT. -/
theorem execEvPoll_of_fault {s : State} (hf : s.fault = true) (now : Now) :
    exec (.evPoll now) s = .next { s with reply := .status .fault none } := by
  rw [execEvPoll_eq, if_pos hf, execPollFaulted_of_selected hf (ofBool_append_ofBool_getLsbD_one _ _).symm]

/-- R160: RESET gives the reset state and keeps the events still to be delivered. -/
theorem execReset_eq (s : State) :
    exec .reset s = .next { State.resetWith s.outReset with pending := s.pending } := rfl

/-- Settles O50: a fault latches only in a quiescent block, and of the three events RESET alone clears it. -/
theorem faultIsLeftByResetOnly : Obligations.FaultIsLeftByResetOnly := by
  intro s hinv hf
  obtain ⟨hr, ha⟩ := hinv.faultQuiescent hf
  exact ⟨execEvTick_of_quiescent hr ha, execEvPoll_of_fault hf, _, execReset_eq s, rfl, rfl⟩

end Sys2Proof.Machine
end

section
/-! PROOF. R57 to R60 (30_encoding.md section 6). Each row of the opcode table fixes the bits of the word that are
not its operand; those bits and the operand together are the whole byte, so no code has two readings. -/

namespace Sys2Proof

/-- The width of a field is found again from its number of bits. -/
theorem Width.ofBits_bits (w : Width) : Width.ofBits w.bits = some w := by
  cases w <;> rfl

/-- A number of bits that is a field width is the number of bits of that width. -/
theorem Width.bits_of_ofBits {n : Nat} {w : Width} (h : Width.ofBits n = some w) : w.bits = n := by
  unfold Width.ofBits at h
  split_ifs at h with h3 h5 h6 h7 h8 <;> cases h
  exacts [h3.symm, h5.symm, h6.symm, h7.symm, h8.symm]

/-- Settles O1: a row without an operand in its word is evaluated, the bits of an operand are enumerated, and the
two rows that the second decides are the two sides of its test. -/
theorem decodeOfEncodeIsTheOperation : Obligations.DecodeOfEncodeIsTheOperation := by
  intro i hwf
  cases i
  case bcd v w => simp [decode, encode, decodeFn, Width.ofBits_bits]
  case tickIdle x | tickNop4 x | tickRsvd10 x | tickRsvd12 x | seqIdle x | pollFaulted x | pollBusy x =>
    revert x; decide
  case pollSkip n =>
    have hn : n > Config.skipLimit := of_decide_eq_true hwf
    simp [decode, encode, decodePd, hn]
  case pollCompose now =>
    have hn : ¬now.second > Config.skipLimit := Nat.not_lt.mpr (of_decide_eq_true hwf)
    simp [decode, encode, decodePd, hn]
  all_goals rfl

/-- A byte whose bits from place n up are given by two masks is those bits with its low n bits. -/
theorem eq_match_or_low {b hi lo v : Byte} (n : Nat) (hhi : b &&& hi = 0) (hlo : b &&& lo = v)
    (hcover : hi ||| lo = BitVec.allOnes 8 <<< n) : v ||| (b.extractLsb' 0 n).zeroExtend 8 = b := by
  have hv : v = b &&& (BitVec.allOnes 8 <<< n) := by
    rw [← hcover, ← hlo, BitVec.and_or_distrib_left, hhi]
    exact (BitVec.zero_or).symm
  refine BitVec.eq_of_getLsbD_eq fun i hi8 => ?_
  rw [hv, BitVec.getLsbD_or, BitVec.getLsbD_and, BitVec.getLsbD_shiftLeft, BitVec.getLsbD_allOnes]
  by_cases hin : i < n <;> simp [hin, hi8]
  intro hb
  omega

/-- A row of format TD, SQ or PD without an operand record: its match and its operand bits are the byte. -/
theorem encode_of_row {f : Format} {b hi lo v : Byte} {i : Instr} (n : Nat) (hhi : b &&& hi = 0)
    (hlo : b &&& lo = v) (hcover : hi ||| lo = BitVec.allOnes 8 <<< n)
    (hrow : encode i = ⟨f, v ||| (b.extractLsb' 0 n).zeroExtend 8, .none⟩) : encode i = ⟨f, b, .none⟩ := by
  rw [hrow, eq_match_or_low n hhi hlo hcover]

/-- A row without an operand in its word: the match is the byte. -/
theorem eq_match {b hi lo v : Byte} (hhi : b &&& hi = 0) (hlo : b &&& lo = v)
    (hcover : hi ||| lo = BitVec.allOnes 8) : v = b := by
  have hb : v ||| (b.extractLsb' 0 0).zeroExtend 8 = b := eq_match_or_low 0 hhi hlo hcover
  simpa using hb

/-- An FN row whose one operand is a natural number. -/
theorem encode_of_withNat {b : Byte} {a : Arg} {f : Nat → Instr} {i : Instr}
    (hf : ∀ n, (f n).wellFormed = true ∧ encode (f n) = ⟨.fn, b, .nat n⟩) (h : withNat a f = .ok i) :
    i.wellFormed = true ∧ encode i = ⟨.fn, b, a⟩ := by
  unfold withNat at h
  split at h
  · next n => cases h; exact hf n
  · cases h

theorem encode_of_decodeFn {b : Byte} {a : Arg} {i : Instr} (h : decodeFn b a = .ok i) :
    i.wellFormed = true ∧ encode i = ⟨.fn, b, a⟩ := by
  unfold decodeFn at h
  split at h
  · next hb =>
    subst hb
    split at h
    · split at h
      · split at h
        · next hw => cases h; exact ⟨rfl, by rw [encode, Width.bits_of_ofBits hw]⟩
        · cases h
      · cases h
    · cases h
  split at h
  · next hb =>
    subst hb
    split at h
    · cases h; exact ⟨rfl, rfl⟩
    · cases h
  split at h
  · next hb => subst hb; exact encode_of_withNat (fun _ => ⟨rfl, rfl⟩) h
  split at h
  · next hb => subst hb; exact encode_of_withNat (fun _ => ⟨rfl, rfl⟩) h
  split at h
  · next hb => subst hb; exact encode_of_withNat (fun _ => ⟨rfl, rfl⟩) h
  split at h
  · next hb => subst hb; exact encode_of_withNat (fun _ => ⟨rfl, rfl⟩) h
  split at h
  · next hb => subst hb; exact encode_of_withNat (fun _ => ⟨rfl, rfl⟩) h
  split at h
  · next hb => subst hb; exact encode_of_withNat (fun _ => ⟨rfl, rfl⟩) h
  split at h
  · next hb =>
    subst hb
    split at h
    · cases h; exact ⟨rfl, rfl⟩
    · cases h
  · cases h

theorem encode_of_decodeEv {b : Byte} {a : Arg} {i : Instr} (h : decodeEv b a = .ok i) :
    i.wellFormed = true ∧ encode i = ⟨.ev, b, a⟩ := by
  unfold decodeEv at h
  split at h
  · cases h
  split at h
  · next hb =>
    subst hb
    split at h
    · cases h; exact ⟨rfl, rfl⟩
    · cases h
  split at h
  · next hb =>
    subst hb
    split at h
    · cases h; exact ⟨rfl, rfl⟩
    · cases h
  split at h
  · next hb =>
    subst hb
    split at h
    · cases h; exact ⟨rfl, rfl⟩
    · cases h
  · cases h

/-- A byte of five bits is in one of the TD rows. -/
theorem td_rows (b : Byte) (hhi : b &&& 0xE0 = 0) :
    b &&& 0x10 = 0 ∨ b &&& 0x1F = 0x10 ∨ b &&& 0x1F = 0x11 ∨ b &&& 0x1F = 0x12 ∨ b &&& 0x1F = 0x13 ∨
    b &&& 0x1C = 0x14 ∨ b &&& 0x1F = 0x18 ∨ b &&& 0x1F = 0x19 ∨ b &&& 0x1E = 0x1A ∨ b &&& 0x1C = 0x1C := by
  revert b; decide

theorem encode_of_decodeTd {b : Byte} {a : Arg} {i : Instr} (h : decodeTd b a = .ok i) :
    i.wellFormed = true ∧ encode i = ⟨.td, b, a⟩ := by
  unfold decodeTd at h
  split at h
  · cases h
  next hhi =>
  have hhi := not_not.mp hhi
  split at h
  · split at h
    · next h0 =>
      cases h
      exact ⟨rfl, encode_of_row 4 hhi h0 rfl (by simp [encode])⟩
    split at h
    · next hS0 => cases h; exact ⟨rfl, by rw [encode, eq_match hhi hS0 rfl]⟩
    split at h
    · next hS1 => cases h; exact ⟨rfl, by rw [encode, eq_match hhi hS1 rfl]⟩
    split at h
    · next hS2 => cases h; exact ⟨rfl, by rw [encode, eq_match hhi hS2 rfl]⟩
    split at h
    · next h3 => cases h; exact ⟨rfl, by rw [encode, eq_match hhi h3 rfl]⟩
    split at h
    · next h14 => cases h; exact ⟨rfl, encode_of_row 2 hhi h14 rfl rfl⟩
    split at h
    · next h8 => cases h; exact ⟨rfl, by rw [encode, eq_match hhi h8 rfl]⟩
    split at h
    · next hS9 => cases h; exact ⟨rfl, by rw [encode, eq_match hhi hS9 rfl]⟩
    split at h
    · next h1A => cases h; exact ⟨rfl, encode_of_row 1 hhi h1A rfl rfl⟩
    · next h0 hS0 hS1 hS2 h3 h14 h8 hS9 h1A =>
      cases h
      have h1C : b &&& 0x1C = 0x1C := by
        simpa only [h0, hS0, hS1, hS2, h3, h14, h8, hS9, h1A, false_or] using td_rows b hhi
      exact ⟨rfl, encode_of_row 2 hhi h1C rfl rfl⟩
  · cases h

/-- A byte of two bits is in one of the SQ rows. -/
theorem sq_rows (b : Byte) (hhi : b &&& 0xFC = 0) :
    b &&& 0x02 = 0 ∨ b &&& 0x03 = 0x02 ∨ b &&& 0x03 = 0x03 := by
  revert b; decide

theorem encode_of_decodeSq {b : Byte} {a : Arg} {i : Instr} (h : decodeSq b a = .ok i) :
    i.wellFormed = true ∧ encode i = ⟨.sq, b, a⟩ := by
  unfold decodeSq at h
  split at h
  · cases h
  next hhi =>
  have hhi := not_not.mp hhi
  split at h
  · split at h
    · next h0 =>
      cases h
      exact ⟨rfl, encode_of_row 1 hhi h0 rfl (by simp [encode])⟩
    split at h
    · next h2 => cases h; exact ⟨rfl, by rw [encode, eq_match hhi h2 rfl]⟩
    · next h0 h2 =>
      cases h
      have h3 : b &&& 0x03 = 0x03 := by simpa only [h0, h2, false_or] using sq_rows b hhi
      exact ⟨rfl, by rw [encode, eq_match hhi h3 rfl]⟩
  · cases h

/-- A byte of three bits is in one of the PD rows. -/
theorem pd_rows (b : Byte) (hhi : b &&& 0xF8 = 0) :
    b &&& 0x04 = 0x04 ∨ b &&& 0x06 = 0x02 ∨ b &&& 0x07 = 0x01 ∨ b &&& 0x07 = 0 := by
  revert b; decide

theorem encode_of_decodePd {b : Byte} {a : Arg} {i : Instr} (h : decodePd b a = .ok i) :
    i.wellFormed = true ∧ encode i = ⟨.pd, b, a⟩ := by
  unfold decodePd at h
  split at h
  · cases h
  next hhi =>
  have hhi := not_not.mp hhi
  split at h
  · next h4 =>
    split at h
    · cases h; exact ⟨rfl, encode_of_row 2 hhi h4 rfl rfl⟩
    · cases h
  split at h
  · next h2 =>
    split at h
    · cases h; exact ⟨rfl, encode_of_row 1 hhi h2 rfl rfl⟩
    · cases h
  split at h
  · next h1 =>
    split at h
    · split at h
      · next hn => cases h; exact ⟨decide_eq_true hn, by rw [encode, eq_match hhi h1 rfl]⟩
      · cases h
    · cases h
  · next h4 h2 h1 =>
    split at h
    · split at h
      · cases h
      · next hn =>
        cases h
        have h0 : b &&& 0x07 = 0 := by simpa only [h4, h2, h1, false_or] using pd_rows b hhi
        exact ⟨decide_eq_true (Nat.not_lt.mp hn), by rw [encode, eq_match hhi h0 rfl]⟩
    · cases h

/-- Settles O2: format by format. -/
theorem encodeOfDecodeIsTheCode : Obligations.EncodeOfDecodeIsTheCode := by
  rintro ⟨f, b, a⟩ i h
  cases f with
  | fn => exact encode_of_decodeFn h
  | ev => exact encode_of_decodeEv h
  | td => exact encode_of_decodeTd h
  | sq => exact encode_of_decodeSq h
  | pd => exact encode_of_decodePd h

/-- Settles O3: the words are closed terms, and the decoder is evaluated on each. -/
theorem tableWordsDecode : Obligations.TableWordsDecode := by
  unfold Obligations.TableWordsDecode
  decide

end Sys2Proof
end

section
/-! PROOF. R57 to R60: the dispatch words. The bits of a state select one operation of each format, `tdOp`, `sqOp`
and the operation of a POLL; the words decode to these, the events run these, and every other is refused. -/

namespace Sys2Proof.Machine

/-! ### The operations that the TD and the SQ word select -/

/-- The TD operation at this `active` and `subTick` (R58). -/
def tdOp (active : Bool) (t : SubTick) : Instr :=
  if active then
    match t.val with
    | 0 => .tickS0
    | 1 => .tickS1
    | 2 => .tickS2
    | 3 => .tickNop3
    | 4 => .tickNop4 0
    | 5 => .tickNop4 1
    | 6 => .tickNop4 2
    | 7 => .tickNop4 3
    | 8 => .tickNop8
    | _ => .tickS9
  else .tickIdle (BitVec.ofNat 4 t.val)

/-- The SQ operation at this `armed` and at this bit z (R59). -/
def sqOp (armed last : Bool) : Instr :=
  if armed then (if last then .seqStart else .seqCount) else .seqIdle (BitVec.ofBool last)

theorem decode_tdWord (s : State) : decode ⟨.td, s.tdWord, .none⟩ = .ok (tdOp s.active s.subTick) := by
  have rows : ∀ (a : Bool) (t : SubTick),
      decode ⟨.td, (BitVec.ofBool a ++ BitVec.ofNat 4 t.val).zeroExtend 8, .none⟩ = .ok (tdOp a t) := by decide
  exact rows s.active s.subTick

theorem decode_sqWord (s : State) : decode ⟨.sq, s.sqWord, .none⟩ = .ok (sqOp s.armed s.lastCount) := by
  have rows : ∀ r z : Bool,
      decode ⟨.sq, (BitVec.ofBool r ++ BitVec.ofBool z).zeroExtend 8, .none⟩ = .ok (sqOp r z) := by decide
  exact rows s.armed s.lastCount

/-- R120, R58: the emitter half is the TD operation of the state. -/
theorem emitterHalf_eq (s : State) : emitterHalf s = exec (tdOp s.active s.subTick) s := by
  obtain ⟨_, _, t, a, _⟩ := s
  cases a with
  | false => rfl
  | true => fin_cases t <;> rfl

/-- R120, R59: the sequencer half is the SQ operation of the state. -/
theorem sequencerHalf_eq (s : State) : sequencerHalf s = exec (sqOp s.armed s.lastCount) s := by
  unfold sequencerHalf sqOp
  split
  · split <;> rfl
  · rfl

/-- Settles O34: the emitter half leaves the bits of the SQ word as they are, so the word formed at the start of the
TICK selects the second half. -/
theorem tickRunsItsDispatchWords : Obligations.TickRunsItsDispatchWords := by
  intro s
  refine ⟨tdOp s.active s.subTick, sqOp s.armed s.lastCount, decode_tdWord s, decode_sqWord s, ?_⟩
  rw [← emitterHalf_eq]
  show andThen (emitterHalf s) sequencerHalf = _
  cases he : emitterHalf s with
  | next e =>
    rw [andThen_of_next, andThen_of_next, sequencerHalf_eq]
    rw [emitterHalf_frame he]
    rfl
  | fault f => rfl
  | refused r => rfl

/-! ### The operation that the PD word selects -/

theorem decode_pdWord_of_fault {s : State} (hf : s.fault = true) (n : Nat) :
    decode ⟨.pd, s.pdWord n, .none⟩ =
      .ok (.pollFaulted (BitVec.ofBool s.busy ++ BitVec.ofBool (decide (n > 56)))) := by
  have rows : ∀ b k : Bool,
      decode ⟨.pd, (BitVec.ofBool true ++ BitVec.ofBool b ++ BitVec.ofBool k).zeroExtend 8, .none⟩ =
        .ok (.pollFaulted (BitVec.ofBool b ++ BitVec.ofBool k)) := by decide
  rw [State.pdWord, hf]
  exact rows _ _

theorem decode_pdWord_of_busy {s : State} (hf : s.fault = false) (hb : s.busy = true) (n : Nat) :
    decode ⟨.pd, s.pdWord n, .none⟩ = .ok (.pollBusy (BitVec.ofBool (decide (n > 56)))) := by
  have rows : ∀ k : Bool,
      decode ⟨.pd, (BitVec.ofBool false ++ BitVec.ofBool true ++ BitVec.ofBool k).zeroExtend 8, .none⟩ =
        .ok (.pollBusy (BitVec.ofBool k)) := by decide
  rw [State.pdWord, hf, hb]
  exact rows _

theorem isIdle_iff {s : State} : s.isIdle = true ↔ s.fault = false ∧ s.busy = false := by
  simp [State.isIdle]

theorem decode_pdWord_of_skip {s : State} (hi : s.isIdle = true) {n : Nat} (hk : n > 56) :
    decode ⟨.pd, s.pdWord n, .nat n⟩ = .ok (.pollSkip n) := by
  obtain ⟨hf, hb⟩ := isIdle_iff.mp hi
  have hword : s.pdWord n = 1 := by rw [State.pdWord, hf, hb, decide_eq_true hk]; rfl
  rw [hword]
  simp [decode, decodePd, hk]

theorem decode_pdWord_of_compose {s : State} (hi : s.isIdle = true) {now : Now} (hk : now.second ≤ 56) :
    decode ⟨.pd, s.pdWord now.second, .now now⟩ = .ok (.pollCompose now) := by
  obtain ⟨hf, hb⟩ := isIdle_iff.mp hi
  have hk : ¬now.second > 56 := Nat.not_lt.mpr hk
  have hword : s.pdWord now.second = 0 := by rw [State.pdWord, hf, hb, decide_eq_false hk]; rfl
  rw [hword]
  simp [decode, decodePd, Nat.not_lt.mp hk]

theorem execEvPoll_eq_pollFaulted {s : State} (hf : s.fault = true) (now : Now) : exec (.evPoll now) s =
    exec (.pollFaulted (BitVec.ofBool s.busy ++ BitVec.ofBool (decide (now.second > 56)))) s := by
  rw [execEvPoll_eq, if_pos hf]

theorem execEvPoll_eq_pollBusy {s : State} (hf : s.fault = false) (hb : s.busy = true) (now : Now) :
    exec (.evPoll now) s = exec (.pollBusy (BitVec.ofBool (decide (now.second > 56)))) s := by
  rw [execEvPoll_eq, if_neg (Bool.eq_false_iff.mp hf), if_pos hb]

theorem execEvPoll_eq_pollSkip {s : State} (hi : s.isIdle = true) {now : Now} (hk : now.second > 56) :
    exec (.evPoll now) s = exec (.pollSkip now.second) s := by
  obtain ⟨hf, hb⟩ := isIdle_iff.mp hi
  rw [execEvPoll_eq, if_neg (Bool.eq_false_iff.mp hf), if_neg (Bool.eq_false_iff.mp hb), if_pos hk]

theorem execEvPoll_eq_pollCompose {s : State} (hi : s.isIdle = true) {now : Now} (hk : now.second ≤ 56) :
    exec (.evPoll now) s = exec (.pollCompose now) s := by
  obtain ⟨hf, hb⟩ := isIdle_iff.mp hi
  rw [execEvPoll_eq, if_neg (Bool.eq_false_iff.mp hf), if_neg (Bool.eq_false_iff.mp hb),
    if_neg (Nat.not_lt.mpr hk)]

/-- Settles O35: one case per test of the POLL. -/
theorem pollRunsItsDispatchWord : Obligations.PollRunsItsDispatchWord := by
  intro now s
  cases hf : s.fault with
  | true => exact ⟨_, .none, .inl rfl, decode_pdWord_of_fault hf _, execEvPoll_eq_pollFaulted hf now⟩
  | false =>
    cases hb : s.busy with
    | true => exact ⟨_, .none, .inl rfl, decode_pdWord_of_busy hf hb _, execEvPoll_eq_pollBusy hf hb now⟩
    | false =>
      have hi := isIdle_of_not_fault_of_not_busy hf hb
      by_cases hk : now.second > 56
      · exact ⟨_, _, .inr (.inl rfl), decode_pdWord_of_skip hi hk, execEvPoll_eq_pollSkip hi hk⟩
      · have hk := Nat.not_lt.mp hk
        exact ⟨_, _, .inr (.inr rfl), decode_pdWord_of_compose hi hk, execEvPoll_eq_pollCompose hi hk⟩

/-! ### Every other operation is refused -/

theorem whenSelected_of_not {b : Bool} (h : ¬b = true) (r : Result) :
    whenSelected b r = .refused .notSelected := by
  rw [Bool.eq_false_iff.mpr h, whenSelected_false]

/-- An operation of an active tick is refused where the TD word selects another. -/
theorem refused_of_atSubTick {s : State} {i : Instr} {t : Nat} {r : Result}
    (hop : ∀ u : SubTick, u.val = t → tdOp true u = i) (hne : tdOp s.active s.subTick ≠ i) :
    whenSelected (s.atSubTick t) r = .refused .notSelected := by
  refine whenSelected_of_not (fun hsel => hne ?_) r
  obtain ⟨ha, ht⟩ := (State.atSubTick_iff s t).mp hsel
  rw [ha, hop _ ht]

theorem tdOp_of_nop4 : ∀ (x : BitVec 2) (u : SubTick), u.val = 4 + x.toNat → tdOp true u = .tickNop4 x := by
  decide

theorem exec_refused_of_td {s : State} {i : Instr} (hfmt : (encode i).format = .td)
    (h10 : ∀ x, i ≠ .tickRsvd10 x) (h12 : ∀ x, i ≠ .tickRsvd12 x) (hne : tdOp s.active s.subTick ≠ i) :
    exec i s = .refused .notSelected := by
  cases i
  case tickIdle sub =>
    refine whenSelected_of_not (fun hsel => hne ?_) _
    obtain ⟨ha, ht⟩ : s.active = false ∧ s.subTick.val = sub.toNat := by simpa using hsel
    rw [ha, tdOp, ht, BitVec.ofNat_toNat, BitVec.setWidth_eq]
    rfl
  case tickNop4 x =>
    exact refused_of_atSubTick (tdOp_of_nop4 x) hne
  case tickS0 | tickS1 | tickS2 | tickNop3 | tickNop8 | tickS9 =>
    exact refused_of_atSubTick (by decide) hne
  case tickRsvd10 x => exact absurd rfl (h10 x)
  case tickRsvd12 x => exact absurd rfl (h12 x)
  all_goals cases hfmt

theorem exec_refused_of_sq {s : State} {i : Instr} (hfmt : (encode i).format = .sq)
    (hne : sqOp s.armed s.lastCount ≠ i) : exec i s = .refused .notSelected := by
  cases i
  case seqIdle z =>
    refine whenSelected_of_not (fun hsel => hne ?_) _
    obtain ⟨hr, hz⟩ : s.armed = false ∧ BitVec.ofBool s.lastCount = z := by simpa using hsel
    rw [hr, ← hz]
    rfl
  case seqCount =>
    refine whenSelected_of_not (fun hsel => hne ?_) _
    obtain ⟨hr, hz⟩ : s.armed = true ∧ s.lastCount = false := by simpa using hsel
    rw [hr, hz]
    rfl
  case seqStart =>
    refine whenSelected_of_not (fun hsel => hne ?_) _
    obtain ⟨hr, hz⟩ : s.armed = true ∧ s.lastCount = true := by simpa using hsel
    rw [hr, hz]
    rfl
  all_goals cases hfmt

/-- Both bits k of a PD word are those of some second. -/
theorem ofBool_secondOfBit (k : BitVec 1) : BitVec.ofBool (decide (secondOfBit k > 56)) = k := by
  revert k; decide

/-- The bits b and k of a PD word, put together again. -/
theorem ofBool_append_secondOfBit (bk : BitVec 2) : BitVec.ofBool (bk.getLsbD 1) ++
    BitVec.ofBool (decide (secondOfBit (bk.extractLsb' 0 1) > 56)) = bk := by
  revert bk; decide

theorem exec_refused_of_pd {s : State} {i : Instr} (hfmt : (encode i).format = .pd)
    (hne : ∀ (n : Nat) (a : Arg), decode ⟨.pd, s.pdWord n, a⟩ ≠ .ok i) : exec i s = .refused .notSelected := by
  cases i
  case pollFaulted bk =>
    refine whenSelected_of_not (fun hsel => hne (secondOfBit (bk.extractLsb' 0 1)) .none ?_) _
    rw [extractLsb'_one_eq_ofBool] at hsel
    obtain ⟨hf, hb⟩ : s.fault = true ∧ BitVec.ofBool s.busy = BitVec.ofBool (bk.getLsbD 1) := by
      simpa using hsel
    rw [decode_pdWord_of_fault hf, hb, ofBool_append_secondOfBit]
  case pollBusy k =>
    refine whenSelected_of_not (fun hsel => hne (secondOfBit k) .none ?_) _
    obtain ⟨hf, hb⟩ : s.fault = false ∧ s.busy = true := by simpa using hsel
    rw [decode_pdWord_of_busy hf hb, ofBool_secondOfBit]
  case pollSkip n =>
    refine whenSelected_of_not (fun hsel => hne n (.nat n) ?_) _
    obtain ⟨hi, hk⟩ : s.isIdle = true ∧ 56 < n := by simpa using hsel
    exact decode_pdWord_of_skip hi hk
  case pollCompose now =>
    refine whenSelected_of_not (fun hsel => hne now.second (.now now) ?_) _
    obtain ⟨hi, hk⟩ : s.isIdle = true ∧ now.second ≤ 56 := by simpa using hsel
    exact decode_pdWord_of_compose hi hk
  all_goals cases hfmt

/-- R43: while a telegram waits or is sent, POLL.COMPOSE is refused. -/
theorem execPollCompose_refused_of_busy {s : State} (hb : s.busy = true) (now : Now) :
    exec (.pollCompose now) s = .refused .notSelected := by
  have hidle : s.isIdle = false := by rw [State.isIdle, hb, Bool.not_true, Bool.and_false]
  refine whenSelected_of_not ?_ _
  rw [hidle, Bool.false_and]
  exact Bool.false_ne_true

/-- Settles O36: the selected operation of each format is `tdOp`, `sqOp` or one that some POLL selects. -/
theorem onlyTheSelectedOperationRuns : Obligations.OnlyTheSelectedOperationRuns := by
  intro s i
  refine ⟨fun hfmt h10 h12 hne => ?_, fun hfmt hne => ?_, exec_refused_of_pd, fun hbusy now => ?_⟩
  · exact exec_refused_of_td hfmt h10 h12 fun heq => hne (heq ▸ decode_tdWord s)
  · exact exec_refused_of_sq hfmt fun heq => hne (heq ▸ decode_sqWord s)
  · exact execPollCompose_refused_of_busy (by simpa [State.busy] using hbusy) now

end Sys2Proof.Machine
end

section
/-! PROOF. R120 and R147: the equations of a TICK and of a step. At most one half of a TICK has something to do in a
state that is not both armed and active, so such a TICK is that half; a step is the event at the head of the port. -/

namespace Sys2Proof.Machine

/-! ### A TICK is one of its halves -/

/-- The sequencer half does not read the reply. -/
theorem sequencerHalf_silence (s : State) : sequencerHalf s.silence = sequencerHalf s := by
  simp only [sequencerHalf, State.silence_armed]
  rfl

/-- R113, R120: with no telegram waiting, a TICK is its emitter half. -/
theorem execEvTick_of_unarmed {s : State} (hr : s.armed = false) : exec .evTick s = emitterHalf s := by
  show andThen (emitterHalf s) sequencerHalf = emitterHalf s
  cases he : emitterHalf s with
  | next e =>
    have hframe := emitterHalf_frame he
    have harmed : e.armed = false := by rw [hframe]; exact hr
    have hsilent : e.silence = e := by rw [hframe]; rfl
    rw [andThen_of_next, sequencerHalf_of_unarmed harmed, hsilent]
  | fault f => rfl
  | refused r => rfl

/-- R121, R120: with nothing being sent, a TICK is its sequencer half. -/
theorem execEvTick_of_inactive {s : State} (ha : s.active = false) : exec .evTick s = sequencerHalf s := by
  show andThen (emitterHalf s) sequencerHalf = sequencerHalf s
  rw [emitterHalf_of_inactive ha, andThen_of_next, sequencerHalf_silence]

/-! ### The emitter half, equation by equation -/

theorem emitterHalf_of_active {s : State} {t : SubTick} (ha : s.active = true) (ht : s.subTick = t) :
    emitterHalf s = exec (tdOp true t) s := by
  rw [← ha, ← ht, emitterHalf_eq]

/-- R122. -/
theorem emitterHalf_at0 {s : State} {code : PulseCode} (ha : s.active = true) (ht : s.subTick = 0)
    (hc : s.buf.read s.slotIndex = some code) : emitterHalf s =
      .next { s with out := if code = .none then s.out else .low, subTick := 1, reply := .silent } :=
  (emitterHalf_of_active ha ht).trans (execTickS0_of_selected ha (congrArg Fin.val ht) hc)

/-- R123. -/
theorem emitterHalf_at1 {s : State} {code : PulseCode} (ha : s.active = true) (ht : s.subTick = 1)
    (hc : s.buf.read s.slotIndex = some code) : emitterHalf s =
      .next { s with out := if code = .short then .high else s.out, subTick := 2, reply := .silent } :=
  (emitterHalf_of_active ha ht).trans (execTickS1_of_selected ha (congrArg Fin.val ht) hc)

/-- R124. -/
theorem emitterHalf_at2 {s : State} (ha : s.active = true) (ht : s.subTick = 2) :
    emitterHalf s = .next { s with out := .high, subTick := 3, reply := .silent } :=
  (emitterHalf_of_active ha ht).trans (execTickS2_of_selected ha (congrArg Fin.val ht))

/-- The three rows of TICK.NOP are the operations at `subTick` 3 to 8. -/
theorem exec_tdOp_of_nop {t : SubTick} (s : State) (h3 : 3 ≤ t.val) (h8 : t.val ≤ 8) :
    exec (tdOp true t) s = whenSelected (s.atSubTick t.val) (nextSubTick s) := by
  obtain ⟨n, hn⟩ := t
  simp only at h3 h8
  interval_cases n <;> rfl

/-- R125. -/
theorem emitterHalf_of_nop {s : State} {u : SubTick} (ha : s.active = true) (h3 : 3 ≤ s.subTick.val)
    (h8 : s.subTick.val ≤ 8) (hu : u.val = s.subTick.val + 1) :
    emitterHalf s = .next { s with subTick := u, reply := .silent } := by
  rw [emitterHalf_of_active ha rfl, exec_tdOp_of_nop s h3 h8]
  exact nextSubTick_of_selected ha rfl hu

/-- R126. -/
theorem emitterHalf_at9 {s : State} (ha : s.active = true) (ht : s.subTick = 9) : emitterHalf s = .next
    (if s.slotIndex.val = 182 then { s with active := false, slotIndex := 0, subTick := 0, reply := .silent }
     else { s with slotIndex := nextSlot s.slotIndex, subTick := 0, reply := .silent }) :=
  (emitterHalf_of_active ha ht).trans (execTickS9_of_selected ha (congrArg Fin.val ht))

/-- The emitter half completes where the slot it may read holds a value. -/
theorem emitterHalf_completes {s : State} (h : s.active = true → (s.buf.read s.slotIndex).isSome = true) :
    ∃ e, emitterHalf s = .next e := by
  cases ha : s.active with
  | false => exact ⟨_, emitterHalf_of_inactive ha⟩
  | true =>
    obtain ⟨code, hc⟩ := Option.isSome_iff_exists.mp (h ha)
    have ht : s.subTick = 0 ∨ s.subTick = 1 ∨ s.subTick = 2 ∨ (3 ≤ s.subTick.val ∧ s.subTick.val ≤ 8) ∨
        s.subTick = 9 := by
      simp only [Fin.ext_iff]
      show s.subTick.val = 0 ∨ s.subTick.val = 1 ∨ s.subTick.val = 2 ∨ _ ∨ s.subTick.val = 9
      omega
    rcases ht with ht | ht | ht | ⟨h3, h8⟩ | ht
    · exact ⟨_, emitterHalf_at0 ha ht hc⟩
    · exact ⟨_, emitterHalf_at1 ha ht hc⟩
    · exact ⟨_, emitterHalf_at2 ha ht⟩
    · exact ⟨_, emitterHalf_of_nop (u := ⟨s.subTick.val + 1, by omega⟩) ha h3 h8 rfl⟩
    · exact ⟨_, emitterHalf_at9 ha ht⟩

/-! ### The sequencer, equation by equation -/

/-- R113: in a state that is not armed and with the word's bit z that of the state, SEQ.IDLE changes nothing. -/
theorem execSeqIdle_of_selected {s : State} {z : BitVec 1} (hr : s.armed = false)
    (hz : BitVec.ofBool s.lastCount = z) : exec (.seqIdle z) s = .next { s with reply := .silent } := by
  have hsel : (!s.armed && BitVec.ofBool s.lastCount == z) = true := by rw [hr, hz, beq_self_eq_true]; rfl
  rw [exec, execSeqIdle, hsel, whenSelected_true, State.silence]

theorem lastCount_eq_false {s : State} (h : s.alignCount.val ≠ 1) : s.lastCount = false := beq_false_of_ne h

theorem lastCount_eq_true {s : State} (h : s.alignCount.val = 1) : s.lastCount = true := beq_iff_eq.mpr h

theorem execSeqCount_of_selected {s : State} (hr : s.armed = true) (hc : s.alignCount.val ≠ 1) :
    exec .seqCount s = if s.alignCount.val = 0 then .refused .alignCountZero
      else .next { s with alignCount := countDown s.alignCount, reply := .silent } := by
  have hsel : (s.armed && !s.lastCount) = true := by rw [hr, lastCount_eq_false hc]; rfl
  rw [exec, execSeqCount, hsel, whenSelected_true]

/-- The count less one is the number below it. -/
theorem countDown_eq {m n : AlignCount} (h : m.val = n.val + 1) : countDown m = n := by
  apply Fin.ext
  show m.val - 1 = n.val
  omega

/-- R111. -/
theorem execSeqCount_of_succ {s : State} {n : AlignCount} (hr : s.armed = true)
    (hc : s.alignCount.val = n.val + 1) (hn : 1 ≤ n.val) :
    exec .seqCount s = .next { s with alignCount := n, reply := .silent } := by
  rw [execSeqCount_of_selected hr (by omega), if_neg (by omega), countDown_eq hc]

/-- R112. -/
theorem execSeqStart_of_selected {s : State} (hr : s.armed = true) (hc : s.alignCount.val = 1) :
    exec .seqStart s =
      .next { s with alignCount := 0, armed := false, active := true, reply := .silent } := by
  have hsel : (s.armed && s.lastCount) = true := by rw [hr, lastCount_eq_true hc]; rfl
  rw [exec, execSeqStart, hsel, whenSelected_true]

theorem sequencerHalf_of_armed {s : State} {z : Bool} (hr : s.armed = true) (hz : s.lastCount = z) :
    sequencerHalf s = exec (sqOp true z) s := by
  rw [← hr, ← hz, sequencerHalf_eq]

theorem sequencerHalf_of_succ {s : State} {n : AlignCount} (hr : s.armed = true)
    (hc : s.alignCount.val = n.val + 1) (hn : 1 ≤ n.val) :
    sequencerHalf s = .next { s with alignCount := n, reply := .silent } := by
  have hlast : s.lastCount = false := lastCount_eq_false (by omega)
  exact (sequencerHalf_of_armed hr hlast).trans (execSeqCount_of_succ hr hc hn)

theorem sequencerHalf_of_one {s : State} (hr : s.armed = true) (hc : s.alignCount.val = 1) :
    sequencerHalf s =
      .next { s with alignCount := 0, armed := false, active := true, reply := .silent } :=
  (sequencerHalf_of_armed hr (lastCount_eq_true hc)).trans (execSeqStart_of_selected hr hc)

/-- The sequencer half completes where a waiting telegram has a positive count. -/
theorem sequencerHalf_completes {s : State} (h : s.armed = true → 1 ≤ s.alignCount.val) :
    ∃ q, sequencerHalf s = .next q := by
  cases hr : s.armed with
  | false => exact ⟨_, sequencerHalf_of_unarmed hr⟩
  | true =>
    have hpos := h hr
    by_cases hc : s.alignCount.val = 1
    · exact ⟨_, sequencerHalf_of_one hr hc⟩
    · exact ⟨_, sequencerHalf_of_succ (n := ⟨s.alignCount.val - 1, by omega⟩) hr
        (by show s.alignCount.val = s.alignCount.val - 1 + 1; omega)
        (by show 1 ≤ s.alignCount.val - 1; omega)⟩

/-- Settles O25: the three operations, each in its own states. -/
theorem sequencerOperations : Obligations.SequencerOperations := by
  intro s
  refine ⟨fun z hr hz => execSeqIdle_of_selected hr ?_, fun n hr hc hn => execSeqCount_of_succ hr hc hn,
    fun hr hc => execSeqStart_of_selected hr hc⟩
  by_cases hc : s.alignCount.val = 1
  · rw [lastCount_eq_true hc, hz.mpr hc]
    rfl
  · have hz0 : z = 0 := by
      rcases BitVec.eq_zero_or_eq_one z with h | h
      · exact h
      · exact absurd (hz.mp h) hc
    rw [lastCount_eq_false hc, hz0]
    rfl

/-- Settles O26: the count 0 selects SEQ.COUNT and is given no meaning. -/
theorem seqCountRefusesZero : Obligations.SeqCountRefusesZero := by
  intro s hr hc
  rw [execSeqCount_of_selected hr (by omega), if_pos hc]

/-! ### The two halves together -/

/-- A TICK completes where each half does and at most one of them has something to do. -/
theorem execEvTick_completes {s : State} (hone : s.armed = false ∨ s.active = false)
    (hslot : s.active = true → (s.buf.read s.slotIndex).isSome = true)
    (hcount : s.armed = true → 1 ≤ s.alignCount.val) : ∃ t, exec .evTick s = .next t := by
  rcases hone with hr | ha
  · rw [execEvTick_of_unarmed hr]
    exact emitterHalf_completes hslot
  · rw [execEvTick_of_inactive ha]
    exact sequencerHalf_completes hcount

/-- Settles O37: the half that has nothing to do keeps the registers that it could write. -/
theorem tickHalvesSampleTheStart : Obligations.TickHalvesSampleTheStart := by
  intro s hone hslot hcount
  obtain ⟨e, he⟩ := emitterHalf_completes hslot
  obtain ⟨q, hq⟩ := sequencerHalf_completes hcount
  refine ⟨e, q, he, hq, ?_⟩
  cases hr : s.armed with
  | false =>
    rw [sequencerHalf_of_unarmed hr] at hq
    cases hq
    rw [execEvTick_of_unarmed hr, he]
    exact congrArg Host.Outcome.next (emitterHalf_frame he)
  | true =>
    have ha : s.active = false := hone.resolve_left (by rw [hr]; decide)
    rw [emitterHalf_of_inactive ha] at he
    cases he
    rw [execEvTick_of_inactive ha, hq]
    exact congrArg Host.Outcome.next (sequencerHalf_frame hq)

/-- Where the slot holds no value, the two operations that read it fault. -/
theorem withSlotCode_of_unwritten {s : State} (h : s.buf.read s.slotIndex = none) (f : PulseCode → State) :
    withSlotCode s f = .fault (.unwrittenSlot s.slotIndex) := by
  rw [withSlotCode, State.slotCode_eq, h]

theorem execTickS0_of_unwritten {s : State} (ha : s.active = true) (ht : s.subTick.val = 0)
    (h : s.buf.read s.slotIndex = none) : exec .tickS0 s = .fault (.unwrittenSlot s.slotIndex) := by
  rw [exec, execTickS0, whenSelected_atSubTick ha ht, withSlotCode_of_unwritten h]

theorem execTickS1_of_unwritten {s : State} (ha : s.active = true) (ht : s.subTick.val = 1)
    (h : s.buf.read s.slotIndex = none) : exec .tickS1 s = .fault (.unwrittenSlot s.slotIndex) := by
  rw [exec, execTickS1, whenSelected_atSubTick ha ht, withSlotCode_of_unwritten h]

/-- Settles O33: the TICK stops in its emitter half. -/
theorem unwrittenSlotFaults : Obligations.UnwrittenSlotFaults := by
  intro s ha h
  have hS0 (ht : s.subTick = 0) := execTickS0_of_unwritten ha (congrArg Fin.val ht) h
  have hS1 (ht : s.subTick = 1) := execTickS1_of_unwritten ha (congrArg Fin.val ht) h
  refine ⟨hS0, hS1, fun ht => ?_⟩
  have hhalf : emitterHalf s = .fault (.unwrittenSlot s.slotIndex) := by
    rcases ht with ht | ht
    · exact (emitterHalf_of_active ha ht).trans (hS0 ht)
    · exact (emitterHalf_of_active ha ht).trans (hS1 ht)
  show andThen (emitterHalf s) sequencerHalf = _
  rw [hhalf]
  rfl

/-- Settles O32: the operation that the TD word selects is none of the reserved ones. -/
theorem reservedSubTickIsRefused : Obligations.ReservedSubTickIsRefused := by
  intro s
  have hnot10 : ∀ (a : Bool) (t : SubTick) (x : BitVec 1), tdOp a t ≠ .tickRsvd10 x := by decide
  have hnot12 : ∀ (a : Bool) (t : SubTick) (x : BitVec 2), tdOp a t ≠ .tickRsvd12 x := by decide
  rw [decode_tdWord]
  exact ⟨fun x => ⟨rfl, fun h => hnot10 _ _ x (Except.ok.inj h)⟩,
    fun x => ⟨rfl, fun h => hnot12 _ _ x (Except.ok.inj h)⟩⟩

/-! ### A step -/

/-- Settles O46: what `step` does with a code that decodes. -/
theorem stepExecutesTheDecodedEvent : Obligations.StepExecutesTheDecodedEvent := by
  intro s s' c i hfetch hdec
  simp only [step, hfetch, hdec]

/-- Settles O47: the code that the instant delivers decodes to the event, and what is left of it stays. -/
theorem stepServesOneEvent : Obligations.StepServesOneEvent := by
  intro s rest now order
  exact ⟨fun h => step_of_ok h rfl, fun h => step_of_ok h rfl, fun h => step_of_ok h rfl,
    fun h => step_of_ok h rfl, step_nothing_pending⟩

/-- Settles O48: an instant with RESET delivers it and leaves nothing. -/
theorem simultaneousResetWins : Obligations.SimultaneousResetWins := by
  intro s x rest hp hx
  have htake : x.take = (⟨.ev, 0b11, .none⟩, none) := if_pos hx
  have hstep := step_of_ok (i := .reset) hp (by rw [htake]; rfl)
  rw [htake] at hstep
  exact hstep

/-- Settles O45: `execReset_eq` with the fields of the reset state written out. -/
theorem resetGivesTheResetState : Obligations.ResetGivesTheResetState := execReset_eq

/-! ### The set-up of a state for an operation (log 12) -/

theorem step_raiseNext_tick (s : State) : step (s.raiseNext Instant.ofTick) = exec .evTick s := rfl

theorem step_raiseNext_poll (s : State) (now : Now) :
    step (s.raiseNext (Instant.ofPoll now)) = exec (.evPoll now) s := rfl

theorem step_raiseNext_reset (s : State) : step (s.raiseNext Instant.ofReset) = exec .reset s := rfl

/-- Set up for a TICK of the emitter, a step runs the TD operation of that `subTick`. -/
theorem step_selectTick (s : State) (t : SubTick) :
    step (s.selectTick t) = exec (tdOp true t) { s.selectTick t with pending := s.pending } := by
  rw [State.selectTick, step_raiseNext_tick, execEvTick_of_unarmed rfl, emitterHalf_eq]
  rfl

/-- Set up for a TICK of the sequencer, a step runs the SQ operation of these bits. -/
theorem step_selectSeq (s : State) (r : Bool) (n : AlignCount) :
    step (s.selectSeq r n) = exec (sqOp r (n.val == 1)) { s.selectSeq r n with pending := s.pending } := by
  rw [State.selectSeq, step_raiseNext_tick, execEvTick_of_inactive rfl, sequencerHalf_eq]
  rfl

/-- Set up for an idle TICK, a step runs TICK.IDLE with the state's `subTick`. -/
theorem step_select_tickIdle (s : State) {sub : BitVec 4} (h : sub.toNat < 10) :
    step (s.select (.tickIdle sub)) =
      exec (.tickIdle sub) { s.select (.tickIdle sub) with pending := s.pending } := by
  have hsub : (subTickOfBits sub).getD s.subTick = ⟨sub.toNat, h⟩ := by
    rw [subTickOfBits, dif_pos h, Option.getD_some]
  have hop : tdOp false ⟨sub.toNat, h⟩ = .tickIdle sub := by
    show Instr.tickIdle (BitVec.ofNat 4 sub.toNat) = _
    rw [BitVec.ofNat_toNat, BitVec.setWidth_eq]
  simp only [State.select, hsub]
  rw [step_raiseNext_tick, execEvTick_of_unarmed rfl, emitterHalf_eq, ← hop]
  rfl

/-- The count that the set-up takes has the bit z asked for. -/
theorem countOfBit_lastCount (z : BitVec 1) (n : AlignCount) :
    BitVec.ofBool ((countOfBit z n).val == 1) = z := by
  unfold countOfBit
  rcases BitVec.eq_zero_or_eq_one z with rfl | rfl
  · rw [if_neg (by decide)]
    split
    · rfl
    · next h => rw [beq_false_of_ne h]; rfl
  · rfl

/-- The count that the set-up takes for SEQ.COUNT is not the last one. -/
theorem count_ne_one (n : AlignCount) : ((if n.val ≤ 1 then 2 else n : AlignCount).val == 1) = false := by
  split
  · rfl
  · next h => exact beq_false_of_ne (by omega)

/-- Settles O51: each set-up puts the event first in the port, with the bits that select the operation. -/
theorem selectedOperationIsStepped : Obligations.SelectedOperationIsStepped := by
  intro s i hwf hfmt hsub
  cases i
  case evTick => exact step_raiseNext_tick s
  case evPoll now => exact step_raiseNext_poll s now
  case reset => exact step_raiseNext_reset s
  case tickIdle sub =>
    refine step_select_tickIdle s ?_
    revert hsub hfmt hwf; revert sub; decide
  case tickS0 | tickS1 | tickS2 | tickNop3 | tickNop8 | tickS9 => exact step_selectTick s _
  case tickNop4 x =>
    rw [State.select, step_selectTick, tdOp_of_nop4 x _ rfl]
  case tickRsvd10 x =>
    exfalso
    revert hsub; revert x; decide
  case tickRsvd12 x =>
    exfalso
    revert hsub; revert x; decide
  case seqIdle z =>
    rw [State.select, step_selectSeq, sqOp, if_neg (by decide), countOfBit_lastCount]
  case seqCount =>
    rw [State.select, step_selectSeq, count_ne_one]
    rfl
  case seqStart => exact step_selectSeq s _ _
  case pollFaulted bk =>
    refine (step_raiseNext_poll _ _).trans ((execEvPoll_eq_pollFaulted rfl _).trans ?_)
    show exec (.pollFaulted (BitVec.ofBool (bk.getLsbD 1 || false) ++
      BitVec.ofBool (decide (secondOfBit (bk.extractLsb' 0 1) > 56)))) _ = _
    rw [Bool.or_false, ofBool_append_secondOfBit]
    rfl
  case pollBusy k =>
    refine (step_raiseNext_poll _ _).trans ((execEvPoll_eq_pollBusy rfl rfl _).trans ?_)
    show exec (.pollBusy (BitVec.ofBool (decide (secondOfBit k > 56)))) _ = _
    rw [ofBool_secondOfBit]
    rfl
  case pollSkip n =>
    have hn : n > 56 := of_decide_eq_true hwf
    exact (step_raiseNext_poll _ _).trans (execEvPoll_eq_pollSkip rfl hn)
  case pollCompose now =>
    have hn : now.second ≤ 56 := of_decide_eq_true hwf
    exact (step_raiseNext_poll _ _).trans (execEvPoll_eq_pollCompose rfl hn)
  all_goals exact absurd rfl hfmt

end Sys2Proof.Machine
end

section
/-! PROOF. R105, R142, R166: every POLL completes with a status. A telegram has as many slots as the buffer, so its
block write stays inside the bound. -/

namespace Sys2Proof.Machine

/-- A telegram fits the buffer. -/
theorem memWrite_telegram {p : Snapshot} {slots : List PulseCode} (h : telegram p = .ok slots) (m : Memory) :
    ∃ buf, memWrite m 0 slots = some buf := by
  have hfits : 0 + slots.length ≤ 183 := by rw [telegram_length h]
  exact Option.isSome_iff_exists.mp ((memWrite_isSome m 0 slots).mpr hfits)

/-- R106: in the states that select it, POLL.COMPOSE with a telegram stores it and starts the wait. -/
theorem execPollCompose_of_telegram_ok {now : Now} {s : State} {slots : List PulseCode} {buf : Memory}
    (hi : s.isIdle = true) (hk : now.second ≤ 56) (h : telegram (snapOf now) = .ok slots)
    (hbuf : memWrite s.buf 0 slots = some buf) :
    exec (.pollCompose now) s =
      .next { s with buf := buf, alignCount := alignTicks now.second, armed := true,
                     reply := .status .ok (some (alignmentDelay now.second)) } := by
  have hsel : (s.isIdle && decide (now.second ≤ Config.skipLimit)) = true := by
    rw [hi, decide_eq_true hk, Bool.true_and]
  simp only [exec, execPollCompose, hsel, whenSelected_true, h, storeTelegram, hbuf]

/-- R109: a POLL while a telegram waits or is sent only reports BUSY. -/
theorem execEvPoll_of_busy {s : State} (hf : s.fault = false) (hb : s.busy = true) (now : Now) :
    exec (.evPoll now) s = .next { s with reply := .status .busy none } :=
  (execEvPoll_eq_pollBusy hf hb now).trans (execPollBusy_of_selected _ hf hb)

/-- R108: a POLL of an idle block after second 56 only reports SKIP. -/
theorem execEvPoll_of_skip {s : State} (hi : s.isIdle = true) {now : Now} (hk : now.second > 56) :
    exec (.evPoll now) s = .next { s with reply := .status .skip none } :=
  (execEvPoll_eq_pollSkip hi hk).trans (execPollSkip_of_selected hi hk)

/-- R143: no POLL stops. -/
theorem execEvPoll_completes (now : Now) (s : State) : ∃ t, exec (.evPoll now) s = .next t := by
  cases hf : s.fault with
  | true => exact ⟨_, execEvPoll_of_fault hf now⟩
  | false =>
    cases hb : s.busy with
    | true => exact ⟨_, execEvPoll_of_busy hf hb now⟩
    | false =>
      have hi := isIdle_of_not_fault_of_not_busy hf hb
      by_cases hk : now.second > 56
      · exact ⟨_, execEvPoll_of_skip hi hk⟩
      have hk := Nat.not_lt.mp hk
      rw [execEvPoll_eq_pollCompose hi hk]
      cases ht : telegram (snapOf now) with
      | error c => exact ⟨_, execPollCompose_of_telegram_error hi hk ht⟩
      | ok slots =>
        obtain ⟨buf, hbuf⟩ := memWrite_telegram ht s.buf
        exact ⟨_, execPollCompose_of_telegram_ok hi hk ht hbuf⟩

/-- Settles O22: the POLL completes, and each of its five outcomes is a status. -/
theorem everyPollReportsAStatus : Obligations.EveryPollReportsAStatus := by
  intro now s
  obtain ⟨t, h⟩ := execEvPoll_completes now s
  rcases execEvPoll_cases h with ⟨-, rfl⟩ | ⟨-, -, rfl⟩ | ⟨-, -, rfl⟩ | ⟨-, -, slots, buf, -, -, rfl⟩ |
    ⟨-, -, c, -, rfl⟩
  · exact ⟨_, .fault, none, h, rfl, by simp, fun _ => rfl⟩
  · exact ⟨_, .busy, none, h, rfl, by simp, fun _ => rfl⟩
  · exact ⟨_, .skip, none, h, rfl, by simp, fun _ => rfl⟩
  · exact ⟨_, .ok, some _, h, rfl, by simp, by simp⟩
  · exact ⟨_, .fault, none, h, rfl, by simp, by simp⟩

/-- Settles O24: the state fixes the answer in the first two cases, and SKIP is the answer in the third unless one
of them holds. -/
theorem declinedPollsDoNotReadNow : Obligations.DeclinedPollsDoNotReadNow := by
  intro n₁ n₂ s h
  cases hf : s.fault with
  | true => exact ⟨_, execEvPoll_of_fault hf n₁, execEvPoll_of_fault hf n₂⟩
  | false =>
    cases hb : s.busy with
    | true => exact ⟨_, execEvPoll_of_busy hf hb n₁, execEvPoll_of_busy hf hb n₂⟩
    | false =>
      have hi := isIdle_of_not_fault_of_not_busy hf hb
      obtain ⟨h₁, h₂⟩ : n₁.second > 56 ∧ n₂.second > 56 := by simpa [hf, hb] using h
      exact ⟨_, execEvPoll_of_skip hi h₁, execEvPoll_of_skip hi h₂⟩

end Sys2Proof.Machine
end

section
/-! PROOF. R25. What each event can do is a short list of moves of the state; each move keeps the invariants, and a
step is one event of the port. -/

namespace Sys2Proof

open Machine

/-! ### The moves -/

theorem inv_resetWith (o : Level) : Inv (State.resetWith o) where
  positionLegal := ⟨Nat.zero_le _, Nat.zero_le _⟩
  notBoth := .inl rfl
  idlePosition _ := ⟨rfl, rfl⟩
  armedCount h := absurd h Bool.false_ne_true
  unarmedCount _ := rfl
  bufferWritten h := absurd h (by simp)
  faultQuiescent h := absurd h Bool.false_ne_true
  noFaultNoCause _ := rfl
  canonical := rfl

/-- The invariants read neither the port nor the reply. -/
theorem Inv.withPort {s : State} (h : Inv s) (p : List Instant) (r : Reply) :
    Inv { s with pending := p, reply := r } := { h with }

/-- The walker may go anywhere while a telegram is sent, the line to any level. -/
theorem Inv.move {s : State} (h : Inv s) (ha : s.active = true) (i : SlotIndex) (t : SubTick) (o : Level) :
    Inv { s with slotIndex := i, subTick := t, out := o, reply := .silent } :=
  { h with
    positionLegal := ⟨Nat.lt_succ_iff.mp i.isLt, Nat.lt_succ_iff.mp t.isLt⟩
    idlePosition := fun hidle => absurd ha (Bool.eq_false_iff.mp hidle) }

/-- R126: the end of a transmission. -/
theorem Inv.finish {s : State} (h : Inv s) :
    Inv { s with active := false, slotIndex := 0, subTick := 0, reply := .silent } :=
  { h with
    positionLegal := ⟨Nat.zero_le _, Nat.zero_le _⟩
    notBoth := .inr rfl
    idlePosition := fun _ => ⟨rfl, rfl⟩
    bufferWritten := fun hbusy => h.bufferWritten (.inl (hbusy.resolve_right Bool.false_ne_true))
    faultQuiescent := fun hf => ⟨(h.faultQuiescent hf).1, rfl⟩ }

/-- R111: the wait counts down to a positive count. -/
theorem Inv.count {s : State} (h : Inv s) (hr : s.armed = true) {n : AlignCount} (hn : 1 ≤ n.val) :
    Inv { s with alignCount := n, reply := .silent } :=
  { h with
    armedCount := fun _ => hn
    unarmedCount := fun hun => absurd hr (Bool.eq_false_iff.mp hun) }

/-- R112: the wait ends, and the transmission starts. -/
theorem Inv.start {s : State} (h : Inv s) (hr : s.armed = true) :
    Inv { s with alignCount := 0, armed := false, active := true, reply := .silent } :=
  { h with
    notBoth := .inl rfl
    idlePosition := fun hidle => absurd hidle (by simp)
    armedCount := fun harm => absurd harm Bool.false_ne_true
    unarmedCount := fun _ => rfl
    bufferWritten := fun _ => h.bufferWritten (.inl hr)
    faultQuiescent := fun hf => absurd hr (Bool.eq_false_iff.mp (h.faultQuiescent hf).1) }

theorem isIdle_flags {s : State} (hi : s.isIdle = true) :
    s.fault = false ∧ s.armed = false ∧ s.active = false := by
  simpa [State.isIdle, State.busy] using hi

/-- R141: a RangeFault is latched in an idle state. -/
theorem Inv.latch {s : State} (h : Inv s) (hi : s.isIdle = true) (c : Cause) (r : Reply) :
    Inv { s with fault := true, faultCause := c, reply := r } :=
  { h with
    faultQuiescent := fun _ => (isIdle_flags hi).2
    noFaultNoCause := fun hf => absurd hf (by simp) }

/-- Every slot of a buffer in which 183 slots were written from slot 0 on holds a value. -/
theorem bufferFull_of_memWrite {m buf : Memory} {slots : List PulseCode} (hlen : slots.length = 183)
    (h : memWrite m 0 slots = some buf) : bufferFull buf = true := by
  refine List.all_eq_true.mpr fun k _ => ?_
  have hk : k.val < slots.length := by rw [hlen]; exact k.isLt
  rw [memWrite_read h k, if_pos ⟨Nat.zero_le _, by omega⟩, Nat.sub_zero, List.getElem?_eq_getElem hk]
  rfl

/-- R106: a composed telegram is stored in an idle state; its count is at least 20. -/
theorem Inv.store {s : State} (h : Inv s) (hi : s.isIdle = true) {p : Snapshot} {slots : List PulseCode}
    {buf : Memory} (ht : telegram p = .ok slots) (hbuf : memWrite s.buf 0 slots = some buf) {second : Nat}
    (hk : second ≤ 56) (r : Reply) :
    Inv { s with buf := buf, alignCount := alignTicks second, armed := true, reply := r } := by
  obtain ⟨hf, -, ha⟩ := isIdle_flags hi
  exact
    { h with
      notBoth := .inr ha
      armedCount := fun _ => by
        show 1 ≤ 10 * (58 - second)
        omega
      unarmedCount := fun hun => absurd hun (by simp)
      bufferWritten := fun _ => bufferFull_of_memWrite (telegram_length ht) hbuf
      faultQuiescent := fun hfault => absurd hfault (Bool.eq_false_iff.mp hf)
      canonical := memWrite_wf h.canonical hbuf }

/-! ### The events -/

theorem emitterHalf_keeps_inv {s e : State} (h : Inv s) (he : emitterHalf s = .next e) : Inv e := by
  rcases emitterHalf_cases he with ⟨-, rfl⟩ | ⟨ha, -, c, -, rfl⟩ | ⟨ha, -, c, -, rfl⟩ | ⟨ha, -, rfl⟩ |
    ⟨ha, -, -, rfl⟩ | ⟨-, -, -, rfl⟩ | ⟨ha, -, -, rfl⟩
  · exact h.withPort _ _
  · exact h.move ha _ _ _
  · exact h.move ha _ _ _
  · exact h.move ha _ _ _
  · exact h.move ha _ _ _
  · exact h.finish
  · exact h.move ha _ _ _

theorem sequencerHalf_keeps_inv {s q : State} (h : Inv s) (hq : sequencerHalf s = .next q) : Inv q := by
  rcases sequencerHalf_cases hq with ⟨-, rfl⟩ | ⟨hr, hc, rfl⟩ | ⟨hr, -, rfl⟩
  · exact h.withPort _ _
  · exact h.count hr (show 1 ≤ s.alignCount.val - 1 by omega)
  · exact h.start hr

theorem execEvTick_keeps_inv {s t : State} (h : Inv s) (ht : exec .evTick s = .next t) : Inv t := by
  obtain ⟨e, he, hq⟩ := execEvTick_next.mp ht
  exact sequencerHalf_keeps_inv (emitterHalf_keeps_inv h he) hq

theorem execEvPoll_keeps_inv {now : Now} {s t : State} (h : Inv s) (ht : exec (.evPoll now) s = .next t) :
    Inv t := by
  rcases execEvPoll_cases ht with ⟨-, rfl⟩ | ⟨-, -, rfl⟩ | ⟨-, -, rfl⟩ | ⟨hi, hk, slots, buf, hs, hb, rfl⟩ |
    ⟨hi, -, c, -, rfl⟩
  · exact h.withPort _ _
  · exact h.withPort _ _
  · exact h.withPort _ _
  · exact h.store hi hs hb hk _
  · exact h.latch hi c _

/-- Settles O53: the events keep the invariants, and the port is not among what they speak of. -/
theorem everyStepKeepsTheInvariants : Obligations.EveryStepKeepsTheInvariants := by
  intro s t h hstep
  rcases step_cases hstep with ⟨p, ht⟩ | ⟨p, ht⟩ | ⟨p, now, ht⟩ | ⟨p, rfl⟩
  · cases ht
    exact (inv_resetWith s.outReset).withPort p .silent
  · exact execEvTick_keeps_inv (h.withPort p s.reply) ht
  · exact execEvPoll_keeps_inv (h.withPort p s.reply) ht
  · exact h.withPort p .silent

/-! ### The telegram in the buffer -/

/-- A block write of all 183 slots leaves nothing of the buffer it was made in. -/
theorem memWrite_nil_of_memWrite {m buf : Memory} {slots : List PulseCode} (hm : m.wf = true)
    (hlen : slots.length = 183) (h : memWrite m 0 slots = some buf) : memWrite [] 0 slots = some buf := by
  have hfits : 0 + slots.length ≤ 183 := by rw [hlen]
  obtain ⟨buf', h'⟩ := Option.isSome_iff_exists.mp ((memWrite_isSome [] 0 slots).mpr hfits)
  have hsame : buf' = buf := by
    refine Memory.ext_read (memWrite_wf rfl h') (memWrite_wf hm h) fun k => ?_
    have hin : 0 ≤ k.val ∧ k.val < 0 + slots.length := ⟨Nat.zero_le _, by omega⟩
    rw [memWrite_read h' k, memWrite_read h k, if_pos hin, if_pos hin]
  rw [h', hsame]

/-- The property depends on the buffer and the two flags alone. -/
theorem HoldsOneTelegram.of_eq {s t : State} (h : HoldsOneTelegram s) (hbuf : t.buf = s.buf)
    (hbusy : t.armed = true ∨ t.active = true → s.armed = true ∨ s.active = true) : HoldsOneTelegram t := by
  intro ht
  rw [hbuf]
  exact h (hbusy ht)

/-- A TICK neither writes the buffer nor makes a quiescent block busy. -/
theorem execEvTick_keeps_telegram {s t : State} (h : HoldsOneTelegram s) (ht : exec .evTick s = .next t) :
    HoldsOneTelegram t := by
  refine h.of_eq (by rw [execEvTick_frame ht]) fun hbusy => ?_
  by_contra hnot
  obtain ⟨hr, ha⟩ : s.armed = false ∧ s.active = false := by simpa using hnot
  rw [execEvTick_of_quiescent hr ha] at ht
  cases ht
  exact hnot hbusy

theorem execEvPoll_keeps_telegram {now : Now} {s t : State} (hinv : Inv s) (h : HoldsOneTelegram s)
    (ht : exec (.evPoll now) s = .next t) : HoldsOneTelegram t := by
  rcases execEvPoll_cases ht with ⟨-, rfl⟩ | ⟨-, -, rfl⟩ | ⟨-, -, rfl⟩ | ⟨-, hk, slots, buf, hs, hb, rfl⟩ |
    ⟨-, -, c, -, rfl⟩
  · exact h
  · exact h
  · exact h
  · exact fun _ => ⟨now, slots, hk, hs, memWrite_nil_of_memWrite hinv.canonical (telegram_length hs) hb⟩
  · exact h

/-- Settles O54: of the events only a POLL that composes writes the buffer, and it writes all of it. -/
theorem everyStepKeepsOneTelegram : Obligations.EveryStepKeepsOneTelegram := by
  intro s t hinv h hstep
  rcases step_cases hstep with ⟨p, ht⟩ | ⟨p, ht⟩ | ⟨p, now, ht⟩ | ⟨p, rfl⟩
  · cases ht
    exact fun hbusy => absurd hbusy (by simp)
  · exact execEvTick_keeps_telegram (s := { s with pending := p }) h ht
  · exact execEvPoll_keeps_telegram (hinv.withPort p s.reply) h ht
  · exact h

/-- Settles O52: reset is a state of `inv_resetWith`, with no telegram waiting or being sent. -/
theorem invariantsHoldAtReset : Obligations.InvariantsHoldAtReset :=
  ⟨inv_resetWith _, inv_resetWith, fun hbusy => absurd hbusy (by decide)⟩

/-! ### No step stops -/

theorem read_isSome_of_bufferFull {m : Memory} (h : bufferFull m = true) (i : SlotIndex) :
    (m.read i).isSome = true :=
  List.all_eq_true.mp h i (List.mem_finRange i)

theorem Inv.tick_completes {s : State} (h : Inv s) : ∃ t, exec .evTick s = .next t :=
  execEvTick_completes h.notBoth (fun ha => read_isSome_of_bufferFull (h.bufferWritten (.inr ha)) _) h.armedCount

theorem Inv.step_completes {s : State} (h : Inv s) : ∃ t, step s = .next t := by
  cases hp : s.pending with
  | nil => exact ⟨_, step_nothing_pending hp⟩
  | cons x rest =>
    rcases take_decodes x with hd | hd | ⟨now, -, hd⟩ | hd
    · exact ⟨_, (step_of_ok hp hd).trans (execReset_eq _)⟩
    · rw [step_of_ok hp hd]
      exact (h.withPort _ s.reply).tick_completes
    · rw [step_of_ok hp hd]
      exact execEvPoll_completes now _
    · exact ⟨_, step_of_noEvent hp hd⟩

/-- Settles O55: a TICK needs the invariants to complete, a POLL does not. -/
theorem noStepStops : Obligations.NoStepStops :=
  fun s h => ⟨h.step_completes, h.tick_completes, fun now => execEvPoll_completes now s⟩

end Sys2Proof
end

section
/-! PROOF. R131 and R13: the position is written by the emitter half alone, and `active` is set by the sequencer half
and cleared by the emitter half. -/

namespace Sys2Proof.Machine

/-- The position after a TICK is the one its emitter half leaves, and so is `active` where no telegram waits. -/
theorem execEvTick_position {s t : State} (h : exec .evTick s = .next t) :
    ∃ e, emitterHalf s = .next e ∧ t.slotIndex = e.slotIndex ∧ t.subTick = e.subTick ∧
      (s.armed = false → t.active = e.active) := by
  obtain ⟨e, he, hq⟩ := execEvTick_next.mp h
  refine ⟨e, he, by rw [sequencerHalf_frame hq], by rw [sequencerHalf_frame hq], fun hr => ?_⟩
  rw [execEvTick_of_unarmed hr, he] at h
  cases h
  rfl

/-- The slot after a slot below 182 has the next number. -/
theorem nextSlot_val {i : SlotIndex} (h : i.val ≠ 182) : (nextSlot i).val = i.val + 1 := by
  have hi : i.val + 1 < 183 := by omega
  rw [nextSlot, dif_pos hi]

/-- Settles O41: the position in each of the seven cases of the emitter half. -/
theorem walkerMovesOneStepPerTick : Obligations.WalkerMovesOneStepPerTick := by
  intro s t h
  obtain ⟨e, he, hslot, hsub, hact⟩ := execEvTick_position h
  rw [hslot, hsub]
  refine ⟨fun hidle => ?_, fun ha => ?_⟩
  · rw [emitterHalf_of_inactive hidle] at he
    cases he
    exact ⟨rfl, rfl⟩
  rcases emitterHalf_cases he with ⟨hidle, -⟩ | ⟨-, hs, c, -, rfl⟩ | ⟨-, hs, c, -, rfl⟩ | ⟨-, hs, rfl⟩ |
    ⟨-, -, h8, rfl⟩ | ⟨-, hs, hlast, rfl⟩ | ⟨-, hs, hlast, rfl⟩
  · exact absurd ha (Bool.eq_false_iff.mp hidle)
  · exact .inl ⟨by rw [hs]; decide, rfl, by rw [hs]; rfl⟩
  · exact .inl ⟨by rw [hs]; decide, rfl, by rw [hs]; rfl⟩
  · exact .inl ⟨by rw [hs]; decide, rfl, by rw [hs]; rfl⟩
  · exact .inl ⟨h8, rfl, Fin.val_add_one_of_lt' (by omega)⟩
  · exact .inr (.inr ⟨congrArg Fin.val hs, hlast, rfl, rfl, hact⟩)
  · exact .inr (.inl ⟨congrArg Fin.val hs, by omega, nextSlot_val hlast, rfl⟩)

/-- R126: the emitter half clears `active` at the tenth tick of slot 182 only. -/
theorem emitterHalf_clears_active {s e : State} (h : emitterHalf s = .next e) (ha : s.active = true)
    (hclear : e.active = false) : s.slotIndex.val = 182 ∧ s.subTick.val = 9 := by
  have hnot : ∀ {u : State}, u.active = s.active → u.active ≠ false := fun hu => by rw [hu, ha]; decide
  rcases emitterHalf_cases h with ⟨hidle, -⟩ | ⟨-, -, c, -, rfl⟩ | ⟨-, -, c, -, rfl⟩ | ⟨-, -, rfl⟩ |
    ⟨-, -, -, rfl⟩ | ⟨-, hs, hlast, -⟩ | ⟨-, -, -, rfl⟩
  · exact absurd ha (Bool.eq_false_iff.mp hidle)
  · exact absurd hclear (hnot rfl)
  · exact absurd hclear (hnot rfl)
  · exact absurd hclear (hnot rfl)
  · exact absurd hclear (hnot rfl)
  · exact ⟨hlast, congrArg Fin.val hs⟩
  · exact absurd hclear (hnot rfl)

/-- R112: the sequencer half never clears `active`, and sets it at the end of the wait only. -/
theorem sequencerHalf_active {s q : State} (h : sequencerHalf s = .next q) :
    q.active = s.active ∨ (q.active = true ∧ s.armed = true ∧ s.alignCount.val = 1) := by
  rcases sequencerHalf_cases h with ⟨-, rfl⟩ | ⟨-, -, rfl⟩ | ⟨hr, hc, rfl⟩
  · exact .inl rfl
  · exact .inl rfl
  · exact .inr ⟨rfl, hr, hc⟩

/-- Settles O43: a TICK of an inactive block is its sequencer half, and a TICK that clears `active` does it in its
emitter half. -/
theorem activeIsSetAndClearedInOnePlaceEach : Obligations.ActiveIsSetAndClearedInOnePlaceEach := by
  intro s t
  refine ⟨fun h ha ht => ?_, fun h ha ht => ?_, fun now h => by rw [execEvPoll_frame h], fun h => ?_⟩
  · rw [execEvTick_of_inactive ha] at h
    rcases sequencerHalf_active h with hsame | ⟨-, hstart⟩
    · exact absurd ht (by rw [hsame, ha]; decide)
    · exact hstart
  · obtain ⟨e, he, hq⟩ := execEvTick_next.mp h
    refine emitterHalf_clears_active he ha ?_
    rcases sequencerHalf_active hq with hsame | ⟨hset, -⟩
    · rw [← hsame, ht]
    · exact absurd ht (by rw [hset]; decide)
  · cases h
    rfl

end Sys2Proof.Machine
end

section
/-! PROOF. R152: the four modes as values of the three flags, and the moves between them. -/

namespace Sys2Proof.Machine

/-- The flags `fault`, `armed` and `active` of a mode (60_exceptions.md rule R152). -/
def Mode.flags : Mode → Bool × Bool × Bool
  | .idle => (false, false, false)
  | .align => (false, true, false)
  | .transmit => (false, false, true)
  | .faulted => (true, false, false)

theorem mode_eq_some_iff {s : State} {m : Mode} :
    s.mode = some m ↔ s.fault = m.flags.1 ∧ s.armed = m.flags.2.1 ∧ s.active = m.flags.2.2 := by
  unfold State.mode
  generalize s.fault = f, s.armed = r, s.active = a
  revert f r a
  cases m <;> decide

/-- A state with the invariants is in one of the modes: an armed or active state has no fault, and is not both. -/
theorem mode_of_inv {s : State} (h : Inv s) : ∃ m, s.mode = some m := by
  cases hf : s.fault with
  | true =>
    obtain ⟨hr, ha⟩ := h.faultQuiescent hf
    exact ⟨.faulted, mode_eq_some_iff.mpr ⟨hf, hr, ha⟩⟩
  | false =>
    rcases h.notBoth with hr | ha
    · cases ha : s.active with
      | true => exact ⟨.transmit, mode_eq_some_iff.mpr ⟨hf, hr, ha⟩⟩
      | false => exact ⟨.idle, mode_eq_some_iff.mpr ⟨hf, hr, ha⟩⟩
    · cases hr : s.armed with
      | true => exact ⟨.align, mode_eq_some_iff.mpr ⟨hf, hr, ha⟩⟩
      | false => exact ⟨.idle, mode_eq_some_iff.mpr ⟨hf, hr, ha⟩⟩

/-- A TICK of a waiting block counts down or starts the transmission. -/
theorem tick_mode_of_align {s t : State} (hm : s.mode = some .align) (ht : exec .evTick s = .next t) :
    t.mode = some .align ∨ t.mode = some .transmit := by
  obtain ⟨hf, hr, ha⟩ := mode_eq_some_iff.mp hm
  rw [execEvTick_of_inactive ha] at ht
  rcases sequencerHalf_cases ht with ⟨hun, -⟩ | ⟨-, -, rfl⟩ | ⟨-, -, rfl⟩
  · exact absurd hr (by rw [hun]; decide)
  · exact .inl (mode_eq_some_iff.mpr ⟨hf, hr, ha⟩)
  · exact .inr (mode_eq_some_iff.mpr ⟨hf, rfl, rfl⟩)

/-- A TICK of a sending block goes on sending or ends the transmission. -/
theorem tick_mode_of_transmit {s t : State} (hm : s.mode = some .transmit) (ht : exec .evTick s = .next t) :
    t.mode = some .transmit ∨ t.mode = some .idle := by
  obtain ⟨hf, hr, -⟩ := mode_eq_some_iff.mp hm
  rw [execEvTick_of_unarmed hr] at ht
  have hframe := emitterHalf_frame ht
  have hf' : t.fault = false := by rw [hframe]; exact hf
  have hr' : t.armed = false := by rw [hframe]; exact hr
  cases ha : t.active with
  | true => exact .inl (mode_eq_some_iff.mpr ⟨hf', hr', ha⟩)
  | false => exact .inr (mode_eq_some_iff.mpr ⟨hf', hr', ha⟩)

/-- R152: where a TICK can lead. -/
theorem tick_moves {s t : State} {m : Mode} (hm : s.mode = some m) (ht : exec .evTick s = .next t) :
    ∃ m' ∈ tickMoves m, t.mode = some m' := by
  cases m with
  | idle =>
    obtain ⟨-, hr, ha⟩ := mode_eq_some_iff.mp hm
    rw [execEvTick_of_quiescent hr ha] at ht
    cases ht
    exact ⟨.idle, by decide, hm⟩
  | align =>
    rcases tick_mode_of_align hm ht with ht | ht
    · exact ⟨.align, by decide, ht⟩
    · exact ⟨.transmit, by decide, ht⟩
  | transmit =>
    rcases tick_mode_of_transmit hm ht with ht | ht
    · exact ⟨.transmit, by decide, ht⟩
    · exact ⟨.idle, by decide, ht⟩
  | faulted =>
    obtain ⟨-, hr, ha⟩ := mode_eq_some_iff.mp hm
    rw [execEvTick_of_quiescent hr ha] at ht
    cases ht
    exact ⟨.faulted, by decide, hm⟩

/-- Every mode is among those that a POLL can leave the block in. -/
theorem mem_pollMoves_self (m : Mode) : m ∈ pollMoves m := by
  cases m <;> decide

theorem mode_of_isIdle {s : State} (hi : s.isIdle = true) : s.mode = some .idle :=
  mode_eq_some_iff.mpr (isIdle_flags hi)

/-- R152: where a POLL can lead. -/
theorem poll_moves {now : Now} {s t : State} {m : Mode} (hm : s.mode = some m)
    (ht : exec (.evPoll now) s = .next t) : ∃ m' ∈ pollMoves m, t.mode = some m' := by
  rcases execEvPoll_cases ht with ⟨-, rfl⟩ | ⟨-, -, rfl⟩ | ⟨-, -, rfl⟩ | ⟨hi, -, slots, buf, -, -, rfl⟩ |
    ⟨hi, -, c, -, rfl⟩
  · exact ⟨m, mem_pollMoves_self m, hm⟩
  · exact ⟨m, mem_pollMoves_self m, hm⟩
  · exact ⟨m, mem_pollMoves_self m, hm⟩
  · obtain ⟨hf, -, ha⟩ := isIdle_flags hi
    obtain rfl : m = .idle := Option.some.inj (hm.symm.trans (mode_of_isIdle hi))
    exact ⟨.align, by decide, mode_eq_some_iff.mpr ⟨hf, rfl, ha⟩⟩
  · obtain ⟨-, hr, ha⟩ := isIdle_flags hi
    obtain rfl : m = .idle := Option.some.inj (hm.symm.trans (mode_of_isIdle hi))
    exact ⟨.faulted, by decide, mode_eq_some_iff.mpr ⟨rfl, hr, ha⟩⟩

/-- Settles O56: the three events complete, and each leads where the table says. -/
theorem modesMoveAsTheTableSays : Obligations.ModesMoveAsTheTableSays := by
  intro s h
  obtain ⟨m, hm⟩ := mode_of_inv h
  refine ⟨m, hm, ?_, fun now => ?_, _, execReset_eq s, rfl⟩
  · obtain ⟨t, ht⟩ := h.tick_completes
    obtain ⟨m', hmem, hm'⟩ := tick_moves hm ht
    exact ⟨t, m', hmem, ht, hm'⟩
  · obtain ⟨t, ht⟩ := execEvPoll_completes now s
    obtain ⟨m', hmem, hm'⟩ := poll_moves hm ht
    exact ⟨t, m', hmem, ht, hm'⟩

end Sys2Proof.Machine
end

section
/-! PROOF. R72 to R79 and the codes of R50, R140 and R142. A field's bits are the binary digits of its units and of
its tens, so their weighted sum is the value as long as the tens fit the width. -/

namespace Sys2Proof.Machine

theorem returnBits_of_ok {r : Except Cause (List Bool)} {b : List Bool} (h : r = .ok b) (s : State) :
    returnBits r s = .next { s with reply := .bits b } := by
  rw [h, returnBits]

theorem returnBits_of_error {r : Except Cause (List Bool)} {c : Cause} (h : r = .error c) (s : State) :
    returnBits r s = .next { s with fault := true, faultCause := c, reply := .silent } := by
  rw [h, returnBits, raiseRangeFault]

/-- Settles O7: each encoder answers its bits in range and its cause out of range. -/
theorem fieldEncodersReturnOrRaise : Obligations.FieldEncodersReturnOrRaise := by
  intro n s
  have hwday : ∀ {m : Nat}, 1 ≤ m ∧ m ≤ 7 → encWday m = .ok (bcdBits m .w3) := fun {m} h => by
    have hm : m ≠ 0 := by omega
    rw [encWday_ok h.2, normWeekday, if_neg hm]
  exact ⟨fun h => returnBits_of_ok (encMin_ok h) s, fun h => returnBits_of_error (encMin_error h) s,
    fun h => returnBits_of_ok (encHour_ok h) s, fun h => returnBits_of_error (encHour_error h) s,
    fun h => returnBits_of_ok (encDay_ok h.1 h.2) s, fun h => returnBits_of_error (encDay_error h) s,
    fun h => returnBits_of_ok (hwday h) s, fun h => returnBits_of_ok (by rw [h]; rfl) s,
    fun h => returnBits_of_error (encWday_error h) s,
    fun h => returnBits_of_ok (encMon_ok h.1 h.2) s, fun h => returnBits_of_error (encMon_error h) s, rfl⟩

/-- Settles O4: the codes are the tables of R50, R140 and R142, and the signals read the registers. -/
theorem signalsCarryTheSpecCodes : Obligations.SignalsCarryTheSpecCodes := by
  refine ⟨⟨rfl, rfl, rfl⟩, fun s h => ?_, fun s h => ?_, fun s => ?_, fun s st d h => ?_⟩
  · rw [State.signals, h]; rfl
  · rw [State.signals, h]; rfl
  · rw [State.signals]; cases s.faultCause <;> rfl
  · rw [State.signals, State.status, State.delay, h]
    exact ⟨rfl, by cases st <;> rfl⟩

/-- The weighted sum of the low n binary digits of a number. -/
def digitSum (d n : Nat) : Nat := ((List.range n).map fun k => if d.testBit k then 2 ^ k else 0).sum

theorem digitSum_eq (d n : Nat) : digitSum d n = d % 2 ^ n := by
  induction n with
  | zero => simp [digitSum, Nat.mod_one]
  | succ n ih =>
    have hbit : (if d.testBit n then 2 ^ n else 0) = 2 ^ n * (d / 2 ^ n % 2) := by
      rw [Nat.testBit_eq_decide_div_mod_eq]
      rcases Nat.mod_two_eq_zero_or_one (d / 2 ^ n) with h | h <;> simp [h]
    rw [Nat.mod_pow_succ, ← ih, ← hbit]
    simp [digitSum, List.range_succ]

/-- R79: at width w the weighted sum is that of the low bits of the units and ten times that of the tens. -/
theorem decodeBcd_bcdBits_eq {v : Nat} (h : v < 100) (w : Width) :
    decodeBcd (bcdBits v w) = digitSum (v % 10) (min w.bits 4) + 10 * digitSum (v / 10) (w.bits - 4) := by
  have hbits : (packedBcd v).getLsbD =
      fun k => if k < 4 then (v % 10).testBit k else (v / 10).testBit (k - 4) := funext (packedBcd_getLsbD h)
  cases w <;>
    simp [bcdBits, hbits, decodeBcd, bcdWeights, digitSum, Width.bits, List.range_succ, mul_add, Nat.add_assoc]

/-- R79: the bits decode to the value where the tens fit the width (at width 3, where the units do). -/
theorem decodeBcd_bcdBits {v : Nat} {w : Width} (h : v < 100)
    (hfit : if w = .w3 then v ≤ 7 else v / 10 < 2 ^ (w.bits - 4)) : decodeBcd (bcdBits v w) = v := by
  rw [decodeBcd_bcdBits_eq h, digitSum_eq, digitSum_eq]
  cases w <;> simp [Width.bits] at hfit ⊢ <;> omega

/-- Settles O8: BCD answers the bits. -/
theorem bcdDecodesBack : Obligations.BcdDecodesBack :=
  fun v w s hfit => ⟨_, execBcd_eq v w s, bcdBits_length _ _, decodeBcd_bcdBits v.isLt hfit⟩

end Sys2Proof.Machine
end

section
/-! PROOF. R83 to R85, R88 and R89. A frame is its fixed slots and three groups, each with its parity slot, so each
group holds an even number of `Long`. -/

namespace Sys2Proof.Machine

/-- R51: the bit read back from the slot of a bit. -/
theorem map_codeOfBit_beq_long (bits : List Bool) : (bits.map codeOfBit).map (· == .long) = bits := by
  have hone : ∀ b, (codeOfBit b == .long) = b := by decide
  rw [List.map_map]
  exact (List.map_congr_left fun b _ => hone b).trans (List.map_id bits)

/-- Settles O10: the slots of each field are its bits, which decode back because every field fits its width. -/
theorem frameFieldsDecodeBack : Obligations.FrameFieldsDecodeBack := by
  intro p s h
  obtain ⟨hmin, hhour, hday, hwday, hmon, hyear⟩ := frameSlots_fields p
  refine ⟨frameSlots p, execFrame_ok (frame_ok h) s, ?_⟩
  simp only [slotBits, hmin, hhour, hday, hwday, hmon, hyear, map_codeOfBit_beq_long]
  obtain ⟨hm, hh, hd1, hd31, hw, hn1, hn12⟩ := h
  have hw' := (normWeekday_range hw).2
  refine ⟨decodeBcd_bcdBits (by omega) ?_, decodeBcd_bcdBits (by omega) ?_, decodeBcd_bcdBits (by omega) ?_,
    decodeBcd_bcdBits (by omega) ?_, decodeBcd_bcdBits (by omega) ?_, decodeBcd_bcdBits (by omega) ?_⟩
  · show p.minute / 10 < 8
    omega
  · show p.hour / 10 < 4
    omega
  · show p.day / 10 < 4
    omega
  · exact hw'
  · show p.month / 10 < 2
    omega
  · show p.year % 100 / 10 < 16
    omega

/-- A field group with its parity slot. -/
def parityGroup (bits : List Bool) : List PulseCode := (bits ++ [parity bits]).map codeOfBit

/-- R84: a group with its parity slot holds an even number of `Long`. -/
theorem parityGroup_even (bits : List Bool) : (parityGroup bits).count .long % 2 = 0 := by
  have hinj : Function.Injective codeOfBit := by decide
  have hlong : (parityGroup bits).count (codeOfBit true) = (bits ++ [parity bits]).count true :=
    List.count_map_of_injective _ _ hinj _
  have hpar : [parity bits].count true = (parity bits).toNat := by cases parity bits <;> rfl
  show (parityGroup bits).count (codeOfBit true) % 2 = 0
  rw [hlong, List.count_append, hpar]
  exact count_true_add_parity_even bits

/-- R86: a group holds no `None` slot. -/
theorem parityGroup_count_none (bits : List Bool) : (parityGroup bits).count .none = 0 := by
  have hnone : ∀ b, codeOfBit b ≠ .none := by decide
  refine List.count_eq_zero.mpr fun hmem => ?_
  obtain ⟨b, -, hb⟩ := List.mem_map.mp hmem
  exact hnone b hb

@[simp] theorem parityGroup_length (bits : List Bool) : (parityGroup bits).length = bits.length + 1 := by
  simp [parityGroup]

@[simp] theorem dateBits_length (p : Snapshot) : (dateBits p).length = 22 := by
  simp [dateBits, Width.bits]

/-- A frame: slots 0 to 16, 17 to 20, the groups 21 to 28, 29 to 35 and 36 to 58, and slot 59. -/
theorem frameSlots_groups (p : Snapshot) : frameSlots p =
    List.replicate 17 .short ++ ([codeOfBit p.isDst, codeOfBit !p.isDst, .short, .long] ++
      (parityGroup (bcdBits p.minute .w7) ++ (parityGroup (bcdBits p.hour .w6) ++
      (parityGroup (dateBits p) ++ [.none])))) := by
  rw [frameSlots_eq]
  simp [parityGroup, dateBits]

/-- Settles O11: the three runs of slots are the three groups. -/
theorem frameParityGroupsAreEven : Obligations.FrameParityGroupsAreEven := by
  intro p s h
  have hgroups : ((frameSlots p).drop 21).take 8 = parityGroup (bcdBits p.minute .w7) ∧
      ((frameSlots p).drop 29).take 7 = parityGroup (bcdBits p.hour .w6) ∧
      ((frameSlots p).drop 36).take 23 = parityGroup (dateBits p) := by
    refine ⟨?_, ?_, ?_⟩ <;>
      simp (disch := simp [Width.bits]) [frameSlots_groups, drop_append_of_length_le, Width.bits,
        -List.cons_append]
  obtain ⟨hmin, hhour, hdate⟩ := hgroups
  refine ⟨frameSlots p, execFrame_ok (frame_ok h) s, ?_⟩
  rw [longsIn, longsIn, longsIn, hmin, hhour, hdate]
  exact ⟨parityGroup_even _, parityGroup_even _, parityGroup_even _⟩

/-- R88: beside the groups a frame has the `Long` of slot 20 and one of slots 17 and 18, and the `None` of slot 59. -/
theorem frameSlots_counts (p : Snapshot) :
    (frameSlots p).count .long = 2 + (parityGroup (bcdBits p.minute .w7)).count .long +
      (parityGroup (bcdBits p.hour .w6)).count .long + (parityGroup (dateBits p)).count .long ∧
    (frameSlots p).count .none = 1 := by
  have hlead : ∀ d : Bool, [codeOfBit d, codeOfBit !d, .short, .long].count .long = 2 ∧
      [codeOfBit d, codeOfBit !d, .short, .long].count .none = 0 := by decide
  obtain ⟨hlong, hnone⟩ := hlead p.isDst
  simp only [frameSlots_groups, List.count_append, hlong, hnone, parityGroup_count_none]
  constructor
  · simp
    omega
  · decide

/-- R88: only the last two digits of the year are in a frame. -/
theorem frame_year_alias (p : Snapshot) (k : Nat) : frame { p with year := p.year + 100 * k } = frame p := by
  have hyear : encYear (p.year + 100 * k) = encYear p.year := by rw [encYear, encYear, Nat.add_mul_mod_self_left]
  simp only [frame, hyear]

/-- R75, R88: weekday 0 and weekday 7 give the same frame. -/
theorem frame_weekday_alias {p : Snapshot} (h : p.weekday = 0 ∨ p.weekday = 7) :
    frame { p with weekday := 0 } = frame p ∧ frame { p with weekday := 7 } = frame p := by
  have hsame : encWday 0 = encWday 7 := rfl
  have hp : encWday p.weekday = encWday 7 := by rcases h with h | h <;> rw [h, ← hsame]
  simp only [frame, hp, hsame, and_self]

/-- Settles O12: the counts from the groups, the aliases from the encoders. -/
theorem frameCountsAndAliases : Obligations.FrameCountsAndAliases := by
  intro p s h
  obtain ⟨hlong, hnone⟩ := frameSlots_counts p
  have hmin := parityGroup_even (bcdBits p.minute .w7)
  have hhour := parityGroup_even (bcdBits p.hour .w6)
  have hdate := parityGroup_even (dateBits p)
  have hok := frame_ok h
  refine ⟨frameSlots p, execFrame_ok hok s, by omega, by omega, hnone,
    fun k => execFrame_ok ((frame_year_alias p k).trans hok) s, fun hwd => ?_⟩
  obtain ⟨h0, h7⟩ := frame_weekday_alias hwd
  exact ⟨execFrame_ok (h0.trans hok) s, execFrame_ok (h7.trans hok) s⟩

/-- The fields that no check of R89 fails are in range. -/
theorem inRange_of_firstFailing_none {p : Snapshot} (h : firstFailing p = none) : InRange p := by
  unfold firstFailing at h
  split_ifs at h
  unfold InRange
  omega

/-- Settles O13: `frame` reports the first failing field, and answers where there is none. -/
theorem frameReportsTheFirstFailingField : Obligations.FrameReportsTheFirstFailingField := by
  intro p s
  refine ⟨fun c hc => execFrame_error (frame_error_of_firstFailing hc) s, fun hnone => ?_⟩
  have hin := inRange_of_firstFailing_none hnone
  exact ⟨hin, _, execFrame_ok (frame_ok hin) s⟩

end Sys2Proof.Machine
end

section
/-! PROOF. R101 to R104, R55 and R106: the calendar, the telegram and its place in the buffer. -/

namespace Sys2Proof.Machine

theorem isLeap_iff (y : Nat) : isLeap y = true ↔ (y % 4 = 0 ∧ y % 100 ≠ 0) ∨ y % 400 = 0 := by
  simp [isLeap]

/-- Settles O16: the three branches of `daysInMonth`. -/
theorem monthLengthsAreGregorian : Obligations.MonthLengthsAreGregorian := by
  intro y
  refine ⟨fun mo hmo => ?_, fun mo hmo => ?_, fun hleap => ?_, fun hleap => ?_⟩
  · have hne : mo ≠ 2 ∧ ¬(mo = 4 ∨ mo = 6 ∨ mo = 9 ∨ mo = 11) := by revert mo; decide
    rw [daysInMonth, if_neg hne.1, if_neg hne.2]
  · have hne : mo ≠ 2 ∧ (mo = 4 ∨ mo = 6 ∨ mo = 9 ∨ mo = 11) := by revert mo; decide
    rw [daysInMonth, if_neg hne.1, if_pos hne.2]
  · rw [daysInMonth, if_pos rfl, if_pos ((isLeap_iff y).mpr hleap)]
  · rw [daysInMonth, if_pos rfl, if_neg (mt (isLeap_iff y).mp hleap)]

/-- Every month has 28 to 31 days. -/
theorem daysInMonth_range (mo y : Nat) : 28 ≤ daysInMonth mo y ∧ daysInMonth mo y ≤ 31 := by
  unfold daysInMonth
  split
  · split <;> omega
  · split <;> omega

/-! ### One minute later, by how far the carry goes -/

theorem advMin_of_minute {p : Snapshot} (hm : p.minute < 59) :
    advMin p = { p with weekday := normWeekday p.weekday, minute := p.minute + 1 } := by
  have hno : ¬p.minute + 1 > 59 := by omega
  simp only [advMin, if_neg hno]

theorem advMin_of_hour {p : Snapshot} (hm : p.minute = 59) (hh : p.hour < 23) :
    advMin p = { p with weekday := normWeekday p.weekday, minute := 0, hour := p.hour + 1 } := by
  have hcarry : p.minute + 1 > 59 := by omega
  have hno : ¬p.hour + 1 > 23 := by omega
  simp only [advMin, if_pos hcarry, if_neg hno]

theorem advMin_of_day {p : Snapshot} (hm : p.minute = 59) (hh : p.hour = 23)
    (hd : p.day < daysInMonth p.month p.year) :
    advMin p = { p with weekday := normWeekday p.weekday % 7 + 1, minute := 0, hour := 0, day := p.day + 1 } := by
  have hcarry : p.minute + 1 > 59 ∧ p.hour + 1 > 23 := by omega
  have hno : ¬p.day + 1 > daysInMonth p.month p.year := by omega
  simp only [advMin, if_pos hcarry.1, if_pos hcarry.2, if_neg hno]

theorem advMin_of_month {p : Snapshot} (hm : p.minute = 59) (hh : p.hour = 23)
    (hd : daysInMonth p.month p.year ≤ p.day) (hn : p.month < 12) :
    advMin p = { p with weekday := normWeekday p.weekday % 7 + 1, minute := 0, hour := 0, day := 1,
                        month := p.month + 1 } := by
  have hcarry : p.minute + 1 > 59 ∧ p.hour + 1 > 23 ∧ p.day + 1 > daysInMonth p.month p.year := by omega
  have hno : ¬p.month + 1 > 12 := by omega
  simp only [advMin, if_pos hcarry.1, if_pos hcarry.2.1, if_pos hcarry.2.2, if_neg hno]

theorem advMin_of_year {p : Snapshot} (hm : p.minute = 59) (hh : p.hour = 23)
    (hd : daysInMonth p.month p.year ≤ p.day) (hn : p.month = 12) :
    advMin p = { p with weekday := normWeekday p.weekday % 7 + 1, minute := 0, hour := 0, day := 1, month := 1,
                        year := p.year + 1 } := by
  have hcarry : p.minute + 1 > 59 ∧ p.hour + 1 > 23 ∧ p.day + 1 > daysInMonth p.month p.year ∧
      p.month + 1 > 12 := by omega
  obtain ⟨h1, h2, h3, h4⟩ := hcarry
  simp only [advMin, if_pos h1, if_pos h2, if_pos h3, if_pos h4]

/-- R75: the value that the statements write out for a weekday. -/
theorem ite_eq_normWeekday (wd : Nat) : (if wd = 0 then 7 else wd) = normWeekday wd := rfl

/-- Settles O15: the carry stops at the minute, at the hour, at the day, at the month, or goes into the year. -/
theorem nextMinuteCarries : Obligations.NextMinuteCarries := by
  intro p h
  obtain ⟨hm, hh, hd1, hd31, hw, hn1, hn12⟩ := h
  obtain ⟨hw1, hw7⟩ := normWeekday_range hw
  have hdim := daysInMonth_range p.month p.year
  simp only [ite_eq_normWeekday]
  rcases Nat.lt_or_eq_of_le hm with hm | hm
  · rw [advMin_of_minute hm]
    have hne : p.minute ≠ 59 := by omega
    simp only [InRange, hne, false_and, if_false, true_and, and_true]
    omega
  rcases Nat.lt_or_eq_of_le hh with hh | hh
  · rw [advMin_of_hour hm hh]
    have hne : p.hour ≠ 23 := by omega
    simp only [InRange, hm, hne, false_and, and_false, if_false, if_true, true_and, and_true]
    omega
  rcases Nat.lt_or_ge p.day (daysInMonth p.month p.year) with hd | hd
  · rw [advMin_of_day hm hh hd]
    have hne : ¬p.day ≥ daysInMonth p.month p.year := by omega
    simp only [InRange, hm, hh, hne, true_and, and_self, false_and, if_true, if_false, and_true]
    omega
  rcases Nat.lt_or_eq_of_le hn12 with hn | hn
  · rw [advMin_of_month hm hh hd hn]
    have hne : p.month ≠ 12 := by omega
    simp only [InRange, hm, hh, hd, hne, and_self, and_false, if_true, if_false, true_and, and_true]
    omega
  · rw [advMin_of_year hm hh hd hn]
    simp only [InRange, hm, hh, hd, true_and, and_self, if_true]
    simp only [hn, if_true, and_true]
    omega

/-! ### The telegram -/

/-- R102: one minute after a snapshot in range is in range. -/
theorem advMin_inRange {p : Snapshot} (h : InRange p) : InRange (advMin p) := (nextMinuteCarries p h).1

/-- The 183 slots of the telegram of a snapshot in range: the frames of its minute and of the two after it (R106). -/
def telegramSlots (p : Snapshot) : List PulseCode :=
  [.short, .none] ++ frameSlots p ++ frameSlots (advMin p) ++ frameSlots (advMin (advMin p)) ++ [.short]

theorem telegram_of_inRange {p : Snapshot} (h : InRange p) : telegram p = .ok (telegramSlots p) := by
  simp only [telegram, frame_ok h, frame_ok (advMin_inRange h), frame_ok (advMin_inRange (advMin_inRange h))]
  rfl

theorem inRange_of_telegram_ok {p : Snapshot} {slots : List PulseCode} (h : telegram p = .ok slots) :
    InRange p := by
  obtain ⟨f0, -, -, h0, -⟩ := telegram_cases h
  exact inRange_of_frame_ok h0

/-- Settles O17: the two minutes after one in range are in range, so only the first frame can raise. -/
theorem onlyTheFirstFrameRaises : Obligations.OnlyTheFirstFrameRaises := fun _ =>
  ⟨fun h => ⟨_, telegram_of_inRange h⟩,
    fun _ hc => telegram_error_of_frame_error (frame_error_of_firstFailing hc)⟩

/-- What stands at slot k of a telegram (R55). -/
theorem telegramSlots_getElem? (p : Snapshot) {k : Nat} (hk : k < 183) : (telegramSlots p)[k]? =
    if k = 0 then some .short
    else if k = 1 then some .none
    else if k ≤ 61 then (frameSlots p)[k - 2]?
    else if k ≤ 121 then (frameSlots (advMin p))[k - 62]?
    else if k ≤ 181 then (frameSlots (advMin (advMin p)))[k - 122]?
    else some .short := by
  simp only [telegramSlots, List.getElem?_append, List.length_append, List.length_cons, List.length_nil,
    frameSlots_length]
  -- both sides cut the slots at the same places, so of the pairs of pieces all but six are disjoint
  split_ifs <;> try omega
  · next h => rw [h]; rfl
  · next h => rw [h]; rfl
  · rfl
  · rfl
  · rfl
  · obtain rfl : k = 182 := by omega
    rfl

/-- The data slots of a frame are 59 codes of bits, and slot 59 ends it (R80). -/
theorem frameSlots_data (p : Snapshot) :
    ∃ bits : List Bool, bits.length = 59 ∧ frameSlots p = bits.map codeOfBit ++ [.none] := by
  refine ⟨_, ?_, rfl⟩
  have hlen := frameSlots_length p
  rw [frameSlots, List.length_append, List.length_map, List.length_singleton] at hlen
  omega

/-- R86: slot 59 is the only `None` slot of a frame. -/
theorem frameSlots_none_iff (p : Snapshot) (k : Nat) : (frameSlots p)[k]? = some .none ↔ k = 59 := by
  obtain ⟨bits, hlen, heq⟩ := frameSlots_data p
  rw [heq, List.getElem?_append, List.length_map, hlen]
  have hnone : ∀ b, codeOfBit b ≠ .none := by decide
  by_cases hk : k < 59
  · rw [if_pos hk]
    exact iff_of_false (by simp [hnone]) (by omega)
  · rw [if_neg hk, List.getElem?_singleton]
    simp
    omega

/-- Settles O18: the gaps of the three frames are 59 slots after their first, and the header has one. -/
theorem telegramHasFourGaps : Obligations.TelegramHasFourGaps := by
  intro p slots h
  have hlen := telegram_length h
  refine ⟨hlen, fun k => ?_⟩
  rw [telegram_of_inRange (inRange_of_telegram_ok h)] at h
  cases h
  by_cases hk : k < 183
  · rw [telegramSlots_getElem? p hk]
    split_ifs with h0 h1 hf0 hf1 hf2
    · exact iff_of_false (by decide) (by omega)
    · exact iff_of_true rfl (.inl h1)
    · rw [frameSlots_none_iff]; omega
    · rw [frameSlots_none_iff]; omega
    · rw [frameSlots_none_iff]; omega
    · exact iff_of_false (by decide) (by omega)
  · rw [List.getElem?_eq_none (by omega)]
    exact iff_of_false (by decide) (by omega)

/-- Settles O19: the block write puts slot k of the telegram at slot k of the buffer. -/
theorem composeStoresTheTelegram : Obligations.ComposeStoresTheTelegram := by
  intro now s hi hk hin
  have hin1 := advMin_inRange hin
  have htel := telegram_of_inRange hin
  obtain ⟨buf, hbuf⟩ := memWrite_telegram htel s.buf
  refine ⟨_, _, _, _, frame_ok hin, frame_ok hin1, frame_ok (advMin_inRange hin1),
    execPollCompose_of_telegram_ok hi hk htel hbuf, rfl, rfl, fun k => ?_⟩
  have hinside : 0 ≤ k.val ∧ k.val < 0 + (telegramSlots (snapOf now)).length := by
    rw [telegram_length htel]
    omega
  show buf.read k = _
  rw [memWrite_read hbuf k, if_pos hinside, Nat.sub_zero]
  exact telegramSlots_getElem? _ k.isLt

end Sys2Proof.Machine
end

section
/-! PROOF. R147: a TICK and a POLL raised together. Neither event reads the reply. In a quiescent block the TICK does
nothing, so the order matters only if the POLL composes; in a busy block the POLL does nothing, so the order matters
only if the TICK ends the transmission. -/

namespace Sys2Proof.Machine

theorem execEvTick_reply (s : State) (r : Reply) : exec .evTick { s with reply := r } = exec .evTick s := rfl

theorem execEvPoll_reply (now : Now) (s : State) (r : Reply) :
    exec (.evPoll now) { s with reply := r } = exec (.evPoll now) s := rfl

theorem execEvTick_silent {s t : State} (h : exec .evTick s = .next t) (r : Reply) :
    { t with reply := r }.silence = t := by
  rw [execEvTick_frame h]
  rfl

/-- A TICK keeps a busy block busy, unless it ends the transmission. -/
theorem execEvTick_busy {s t : State} (h : exec .evTick s = .next t) (hb : s.busy = true)
    (hend : ¬(s.active = true ∧ s.slotIndex.val = 182 ∧ s.subTick.val = 9)) : t.busy = true := by
  cases ha : s.active with
  | true =>
    have hact : t.active = true := by
      by_contra hclear
      have hclear := Bool.eq_false_iff.mpr hclear
      exact hend ⟨ha, (activeIsSetAndClearedInOnePlaceEach s t).2.1 h ha hclear⟩
    rw [State.busy, hact, Bool.or_true]
  | false =>
    have hr : s.armed = true := by simpa [State.busy, ha] using hb
    rw [execEvTick_of_inactive ha] at h
    rcases sequencerHalf_cases h with ⟨hun, -⟩ | ⟨-, -, rfl⟩ | ⟨-, -, rfl⟩
    · exact absurd hr (Bool.eq_false_iff.mp hun)
    · simp [State.busy, hr]
    · rfl

/-- A TICK and then a POLL (a, then c) and a POLL and then a TICK (b, then c but for the reply) end in the same
state, and the POLL reports the same (R147). -/
def OrdersAgree (now : Now) (s : State) : Prop :=
  ∃ a b c : State, exec .evTick s = .next a ∧ exec (.evPoll now) a = .next c ∧
    exec (.evPoll now) s = .next b ∧ b.reply = c.reply ∧ exec .evTick b = .next { c with reply := .silent }

/-- In a quiescent block the order does not matter unless the POLL composes. -/
theorem order_of_quiescent {s : State} {now : Now} (hr : s.armed = false) (ha : s.active = false)
    (hcomp : ¬(s.isIdle = true ∧ now.second ≤ 56 ∧ InRange (snapOf now))) :
    OrdersAgree now s := by
  obtain ⟨b, hpoll⟩ := execEvPoll_completes now s
  refine ⟨s.silence, b, b, execEvTick_of_quiescent hr ha, (execEvPoll_reply now s _).trans hpoll, hpoll, rfl, ?_⟩
  have hquiet : b.armed = false ∧ b.active = false := by
    rcases execEvPoll_cases hpoll with ⟨-, rfl⟩ | ⟨-, -, rfl⟩ | ⟨-, -, rfl⟩ | ⟨hi, hk, slots, buf, ht, -, rfl⟩ |
      ⟨-, -, c, -, rfl⟩
    · exact ⟨hr, ha⟩
    · exact ⟨hr, ha⟩
    · exact ⟨hr, ha⟩
    · exact absurd ⟨hi, hk, inRange_of_telegram_ok ht⟩ hcomp
    · exact ⟨hr, ha⟩
  exact execEvTick_of_quiescent hquiet.1 hquiet.2

/-- In a busy block the order does not matter unless the TICK ends the transmission: the POLL answers BUSY. -/
theorem order_of_busy {s : State} (now : Now) (h : Inv s) (hf : s.fault = false) (hb : s.busy = true)
    (hend : ¬(s.active = true ∧ s.slotIndex.val = 182 ∧ s.subTick.val = 9)) :
    OrdersAgree now s := by
  obtain ⟨a, htick⟩ := h.tick_completes
  have haf : a.fault = false := by rw [execEvTick_frame htick]; exact hf
  have hab := execEvTick_busy htick hb hend
  refine ⟨a, _, _, htick, execEvPoll_of_busy haf hab now, execEvPoll_of_busy hf hb now, rfl, ?_⟩
  rw [execEvTick_reply, htick]
  exact congrArg Host.Outcome.next (execEvTick_silent htick _).symm

/-- No fault is latched while a telegram waits or is sent (R25). -/
theorem fault_of_busy {s : State} (h : Inv s) (hb : s.busy = true) : s.fault = false := by
  cases hf : s.fault with
  | false => rfl
  | true =>
    obtain ⟨hr, ha⟩ := h.faultQuiescent hf
    rw [State.busy, hr, ha] at hb
    exact absurd hb (by decide)

/-- (i) The TICK that ends a transmission leaves the block idle. -/
theorem tick_of_end {s : State} (h : Inv s) (ha : s.active = true) (hslot : s.slotIndex.val = 182)
    (hsub : s.subTick.val = 9) : ∃ a, exec .evTick s = .next a ∧ a.isIdle = true := by
  have hr : s.armed = false := h.notBoth.resolve_right (by rw [ha]; decide)
  have hf : s.fault = false := fault_of_busy h (by rw [State.busy, ha, Bool.or_true])
  rw [execEvTick_of_unarmed hr, emitterHalf_at9 ha (Fin.ext hsub), if_pos hslot]
  refine ⟨_, rfl, isIdle_of_not_fault_of_not_busy hf ?_⟩
  show (s.armed || false) = false
  rw [hr, Bool.or_false]

/-- A positive count has a count below it. -/
theorem exists_pred_of_pos {c : AlignCount} (h : 1 ≤ c.val) : ∃ n : AlignCount, c.val = n.val + 1 :=
  ⟨⟨c.val - 1, by omega⟩, by show c.val = c.val - 1 + 1; omega⟩

/-- R111: a TICK of the wait counts down. -/
theorem execEvTick_of_succ {s : State} {n : AlignCount} (hr : s.armed = true) (ha : s.active = false)
    (hc : s.alignCount.val = n.val + 1) (hn : 1 ≤ n.val) :
    exec .evTick s = .next { s with alignCount := n, reply := .silent } :=
  (execEvTick_of_inactive ha).trans (sequencerHalf_of_succ hr hc hn)

/-- R112: the last TICK of the wait starts the transmission. -/
theorem execEvTick_of_one {s : State} (hr : s.armed = true) (ha : s.active = false)
    (hc : s.alignCount.val = 1) :
    exec .evTick s = .next { s with alignCount := 0, armed := false, active := true, reply := .silent } :=
  (execEvTick_of_inactive ha).trans (sequencerHalf_of_one hr hc)

/-- (iii) After a POLL that composes a TICK counts, before it the TICK does nothing. -/
theorem order_of_compose {s : State} {now : Now} (hi : s.isIdle = true) (hk : now.second ≤ 56)
    (hin : InRange (snapOf now)) :
    ∃ a b c d : State, exec .evTick s = .next a ∧ exec (.evPoll now) a = .next c ∧
      exec (.evPoll now) s = .next b ∧ b.reply = c.reply ∧ exec .evTick b = .next d ∧
      c.alignCount.val = d.alignCount.val + 1 ∧ d = { c with alignCount := d.alignCount, reply := .silent } := by
  obtain ⟨-, hr, ha⟩ := isIdle_flags hi
  have htel := telegram_of_inRange hin
  obtain ⟨buf, hbuf⟩ := memWrite_telegram htel s.buf
  obtain ⟨b, hpoll, hbr, hba, hbc⟩ : ∃ b, exec (.evPoll now) s = .next b ∧ b.armed = true ∧
      b.active = false ∧ b.alignCount.val = 10 * (58 - now.second) :=
    ⟨_, (execEvPoll_eq_pollCompose hi hk).trans (execPollCompose_of_telegram_ok hi hk htel hbuf), rfl, ha, rfl⟩
  obtain ⟨n, hn⟩ := exists_pred_of_pos (c := b.alignCount) (by omega)
  exact ⟨s.silence, b, b, _, execEvTick_of_quiescent hr ha, (execEvPoll_reply now s _).trans hpoll, hpoll, rfl,
    execEvTick_of_succ hbr hba hn (by omega), hn, rfl⟩

/-- Settles O49: a state with the invariants is quiescent, or busy without a fault. -/
theorem pollAndTickOrderMattersTwice : Obligations.PollAndTickOrderMattersTwice := by
  intro s now h
  refine ⟨fun hend hcomp => ?_, fun ⟨ha, hslot, hsub⟩ => ?_, fun ⟨hi, hk, hin⟩ => order_of_compose hi hk hin⟩
  · cases hb : s.busy with
    | true => exact order_of_busy now h (fault_of_busy h hb) hb hend
    | false =>
      obtain ⟨hr, ha⟩ : s.armed = false ∧ s.active = false := by simpa [State.busy] using hb
      exact order_of_quiescent hr ha hcomp
  · have hb : s.busy = true := by rw [State.busy, ha, Bool.or_true]
    exact ⟨execEvPoll_of_busy (fault_of_busy h hb) hb now, tick_of_end h ha hslot hsub⟩

end Sys2Proof.Machine
end

section
/-! PROOF. R112, R128 and R129: runs of consecutive TICKs. -/

namespace Sys2Proof.Machine

theorem ticks_succ_of_next {s t : State} (h : exec .evTick s = .next t) (n : Nat) :
    ticks (n + 1) s = ticks n t := by
  rw [ticks, h, andThen_of_next]

theorem levels_succ_of_next {s t : State} (h : exec .evTick s = .next t) (n : Nat) :
    levels (n + 1) s = t.out :: levels n t := by
  rw [levels, h]

/-- A run of TICKs is its first part and then the rest. -/
theorem ticks_add {m : Nat} {s u : State} (h : ticks m s = .next u) (n : Nat) :
    ticks (m + n) s = ticks n u ∧ levels (m + n) s = levels m s ++ levels n u := by
  induction m generalizing s with
  | zero =>
    cases h
    rw [Nat.zero_add]
    exact ⟨rfl, rfl⟩
  | succ m ih =>
    obtain ⟨t, ht, hrest⟩ := andThen_next.mp h
    obtain ⟨hticks, hlevels⟩ := ih hrest
    rw [Nat.add_right_comm, ticks_succ_of_next ht, levels_succ_of_next ht, levels_succ_of_next ht, hlevels]
    exact ⟨hticks, rfl⟩

theorem ticks_one (s : State) : ticks 1 s = exec .evTick s := by
  show andThen (exec .evTick s) (ticks 0) = exec .evTick s
  cases exec .evTick s <;> rfl

/-! ### The wait -/

/-- R111: during the wait a TICK only counts. -/
theorem ticks_of_waiting {s : State} (hr : s.armed = true) (ha : s.active = false) (k : Nat)
    (hk : k < s.alignCount.val) : ∃ (n : AlignCount) (r : Reply),
      ticks k s = .next { s with alignCount := n, reply := r } ∧ n.val = s.alignCount.val - k := by
  induction k generalizing s with
  | zero => exact ⟨s.alignCount, s.reply, rfl, rfl⟩
  | succ k ih =>
    obtain ⟨m, hm⟩ := exists_pred_of_pos (c := s.alignCount) (by omega)
    have htick := execEvTick_of_succ hr ha hm (by omega)
    obtain ⟨n, r, hrun, hn⟩ := ih (s := { s with alignCount := m, reply := .silent }) hr ha
      (show k < m.val by omega)
    refine ⟨n, r, (ticks_succ_of_next htick k).trans hrun, ?_⟩
    rw [hn]
    show m.val - k = s.alignCount.val - (k + 1)
    omega

/-- Settles O27: the TICK after all but one of the count finds the count 1. -/
theorem alignmentTakesItsCountOfTicks : Obligations.AlignmentTakesItsCountOfTicks := by
  intro s hr ha hpos
  constructor
  · intro k hk
    obtain ⟨n, r, hrun, hn⟩ := ticks_of_waiting hr ha k hk
    exact ⟨_, hrun, hr, hn, rfl⟩
  · obtain ⟨n, r, hrun, hn⟩ := ticks_of_waiting hr ha (s.alignCount.val - 1) (by omega)
    have hlast := execEvTick_of_one (s := { s with alignCount := n, reply := r }) hr ha
      (show n.val = 1 by omega)
    have hsplit : s.alignCount.val = s.alignCount.val - 1 + 1 := by omega
    rw [hsplit, (ticks_add hrun 1).1, ticks_one]
    exact hlast

end Sys2Proof.Machine
end

section
/-! PROOF. R128: the ten ticks of a slot are three that draw the pulse, six that count and one that moves on. -/

namespace Sys2Proof.Machine

/-- n TICKs from s put these levels on the line and lead to t. -/
structure Runs (n : Nat) (s : State) (line : List Level) (t : State) : Prop where
  ends : ticks n s = .next t
  puts : levels n s = line

theorem Runs.refl (s : State) : Runs 0 s [] s := ⟨rfl, rfl⟩

theorem Runs.cons {n : Nat} {s u t : State} {line : List Level} (h : exec .evTick s = .next u)
    (hrest : Runs n u line t) : Runs (n + 1) s (u.out :: line) t :=
  ⟨(ticks_succ_of_next h n).trans hrest.ends, by rw [levels_succ_of_next h, hrest.puts]⟩

theorem Runs.append {m n : Nat} {s u t : State} {line rest : List Level} (h : Runs m s line u)
    (hrest : Runs n u rest t) : Runs (m + n) s (line ++ rest) t := by
  obtain ⟨hticks, hlevels⟩ := ticks_add h.ends n
  exact ⟨hticks.trans hrest.ends, by rw [hlevels, h.puts, hrest.puts]⟩

theorem Runs.one {s u : State} (h : exec .evTick s = .next u) : Runs 1 s [u.out] u :=
  (Runs.refl u).cons h

/-- R122 to R124: the pulse of a slot. -/
theorem runs_pulse {s : State} {code : PulseCode} (ha : s.active = true) (hr : s.armed = false)
    (ht : s.subTick = 0) (hc : s.buf.read s.slotIndex = some code) :
    Runs 3 s ((slotLevels code s.out).take 3) { s with out := .high, subTick := 3, reply := .silent } := by
  have h0 := (execEvTick_of_unarmed hr).trans (emitterHalf_at0 ha ht hc)
  have h1 := (execEvTick_of_unarmed (s := { s with
    out := if code = .none then s.out else .low, subTick := 1, reply := .silent }) hr).trans
      (emitterHalf_at1 ha rfl hc)
  have h2 := (execEvTick_of_unarmed (s := { s with
    out := if code = .short then .high else if code = .none then s.out else .low,
    subTick := 2, reply := .silent }) hr).trans (emitterHalf_at2 ha rfl)
  have hline : (slotLevels code s.out).take 3 = [if code = .none then s.out else .low,
      if code = .short then .high else if code = .none then s.out else .low, .high] := by
    cases code <;> rfl
  rw [hline]
  exact ((Runs.one h2).cons h1).cons h0

/-- R125: the ticks of a slot that only count leave the line as it is. -/
theorem runs_nop {s : State} (ha : s.active = true) (hr : s.armed = false) (hq : s.reply = .silent)
    (h3 : 3 ≤ s.subTick.val) (n : Nat) {u : SubTick} (hu : u.val = s.subTick.val + n) :
    Runs n s (List.replicate n s.out) { s with subTick := u } := by
  induction n generalizing s with
  | zero =>
    obtain rfl : u = s.subTick := Fin.ext hu
    exact Runs.refl s
  | succ n ih =>
    obtain ⟨v, hv⟩ : ∃ v : SubTick, v.val = s.subTick.val + 1 := ⟨⟨s.subTick.val + 1, by omega⟩, rfl⟩
    have htick : exec .evTick s = .next { s with subTick := v } := by
      rw [execEvTick_of_unarmed hr, emitterHalf_of_nop ha h3 (by omega) hv, ← hq]
    have hrun := (ih (s := { s with subTick := v }) ha hr hq (show 3 ≤ v.val by omega)
      (show u.val = v.val + n by omega)).cons htick
    exact hrun

/-- The state after the slot of a state (R126). -/
def slotEnd (s : State) : State :=
  if s.slotIndex.val = 182 then
    { s with active := false, slotIndex := 0, subTick := 0, out := .high, reply := .silent }
  else { s with slotIndex := nextSlot s.slotIndex, subTick := 0, out := .high, reply := .silent }

theorem slotEnd_out (s : State) : (slotEnd s).out = .high := by
  unfold slotEnd
  split <;> rfl

/-- R128: one slot, from its first tick to the first tick of the next one. -/
theorem runs_slot {s : State} {code : PulseCode} (ha : s.active = true) (hr : s.armed = false)
    (ht : s.subTick = 0) (hc : s.buf.read s.slotIndex = some code) :
    Runs 10 s (slotLevels code s.out) (slotEnd s) := by
  have hnop := runs_nop (s := { s with out := .high, subTick := 3, reply := .silent }) ha hr rfl
    (Nat.le_refl 3) 6 (u := 9) rfl
  have hlast : exec .evTick { s with out := .high, subTick := 9, reply := .silent } = .next (slotEnd s) :=
    (execEvTick_of_unarmed (s := { s with out := .high, subTick := 9, reply := .silent }) hr).trans
      (emitterHalf_at9 ha rfl)
  have hline : slotLevels code s.out =
      (slotLevels code s.out).take 3 ++ List.replicate 6 .high ++ [(slotEnd s).out] := by
    rw [slotEnd_out]
    cases code <;> rfl
  rw [hline]
  exact ((runs_pulse ha hr ht hc).append hnop).append (Runs.one hlast)

/-- Settles O38: what `slotEnd` writes. -/
theorem oneSlotIsTenTicks : Obligations.OneSlotIsTenTicks := by
  intro s code ha hr ht hc
  have hrun := runs_slot ha hr ht hc
  refine ⟨hrun.puts, slotEnd s, hrun.ends, ?_⟩
  unfold slotEnd
  split
  · next hlast => exact ⟨by rw [← ht], fun _ => ⟨rfl, rfl⟩, fun hnot => absurd hlast hnot⟩
  · next hlast => exact ⟨by rw [← ht], fun h => absurd h hlast, fun _ => ⟨nextSlot_val hlast, ha⟩⟩

end Sys2Proof.Machine
end

section
/-! PROOF. R129 and R116: a transmission. While it lasts the walker is at tick n, as 10 times the slot and the
`subTick`; the line is high outside the first two ticks of a slot, so every slot but the first is entered high. -/

namespace Sys2Proof.Machine

/-- One TICK of a transmission, but for the last, moves the walker one tick on; where it does not draw a pulse, the
line is set high or left. -/
theorem execEvTick_of_sending {s : State} (ha : s.active = true) (hr : s.armed = false)
    (hc : (s.buf.read s.slotIndex).isSome = true) (hnot : 10 * s.slotIndex.val + s.subTick.val < 1829) :
    ∃ (i : SlotIndex) (j : SubTick) (o : Level),
      exec .evTick s = .next { s with slotIndex := i, subTick := j, out := o, reply := .silent } ∧
      10 * i.val + j.val = 10 * s.slotIndex.val + s.subTick.val + 1 ∧
      (j.val ≠ 1 → j.val ≠ 2 → o = .high ∨ (o = s.out ∧ 3 ≤ s.subTick.val)) := by
  obtain ⟨e, he⟩ := emitterHalf_completes fun _ => hc
  rw [execEvTick_of_unarmed hr, he]
  rcases emitterHalf_cases he with ⟨hidle, -⟩ | ⟨-, hs, c, -, rfl⟩ | ⟨-, hs, c, -, rfl⟩ | ⟨-, hs, rfl⟩ |
    ⟨-, h3, h8, rfl⟩ | ⟨-, hs, hlast, -⟩ | ⟨-, hs, hlast, rfl⟩
  · exact absurd ha (Bool.eq_false_iff.mp hidle)
  · exact ⟨s.slotIndex, 1, _, rfl, by rw [hs]; rfl, fun h1 => absurd rfl h1⟩
  · exact ⟨s.slotIndex, 2, _, rfl, by rw [hs]; rfl, fun _ h2 => absurd rfl h2⟩
  · exact ⟨s.slotIndex, 3, _, rfl, by rw [hs]; rfl, fun _ _ => .inl rfl⟩
  · have hsum : (s.subTick + 1).val = s.subTick.val + 1 := Fin.val_add_one_of_lt' (by omega)
    exact ⟨s.slotIndex, _, s.out, rfl, by rw [hsum, Nat.add_assoc], fun _ _ => .inr ⟨rfl, h3⟩⟩
  · have h9 : s.subTick.val = 9 := congrArg Fin.val hs
    omega
  · have h9 : s.subTick.val = 9 := congrArg Fin.val hs
    refine ⟨nextSlot s.slotIndex, 0, s.out, rfl, ?_, fun _ _ => .inr ⟨rfl, by omega⟩⟩
    rw [nextSlot_val hlast, h9, Fin.val_zero]
    omega

section
variable {s : State} (ha : s.active = true) (hr : s.armed = false) (hslot : s.slotIndex = 0) (hsub : s.subTick = 0)
  (hfull : bufferFull s.buf = true)
include ha hr hslot hsub hfull

/-- R129: the state after n ticks of a transmission. -/
theorem ticks_of_sending (n : Nat) (hn : n < 1830) : ∃ (i : SlotIndex) (j : SubTick) (o : Level) (r : Reply),
    ticks n s = .next { s with slotIndex := i, subTick := j, out := o, reply := r } ∧
    10 * i.val + j.val = n ∧ (0 < n → j.val ≠ 1 → j.val ≠ 2 → o = .high) := by
  induction n with
  | zero =>
    exact ⟨s.slotIndex, s.subTick, s.out, s.reply, rfl, by rw [hslot, hsub]; rfl, fun h => absurd h (by decide)⟩
  | succ n ih =>
    obtain ⟨i, j, o, r, hrun, hpos, hline⟩ := ih (by omega)
    obtain ⟨i', j', o', htick, hpos', hline'⟩ := execEvTick_of_sending
      (s := { s with slotIndex := i, subTick := j, out := o, reply := r }) ha hr
      (read_isSome_of_bufferFull hfull i) (show 10 * i.val + j.val < 1829 by omega)
    have hpos' : 10 * i'.val + j'.val = 10 * i.val + j.val + 1 := hpos'
    refine ⟨i', j', o', .silent, ?_, by omega, fun _ h1 h2 => ?_⟩
    · rw [(ticks_add hrun 1).1, ticks_one]
      exact htick
    · rcases hline' h1 h2 with hhigh | ⟨hsame, h3⟩
      · exact hhigh
      · have h3 : 3 ≤ j.val := h3
        exact hsame.trans (hline (by omega) (by omega) (by omega))

/-- R129: the last tick of a transmission. -/
theorem ticks_of_whole_sending :
    ticks 1830 s = .next { s with active := false, out := .high, reply := .silent } := by
  obtain ⟨i, j, o, r, hrun, hpos, hline⟩ := ticks_of_sending ha hr hslot hsub hfull 1829 (by omega)
  have hj : j = 9 := Fin.ext (show j.val = 9 by omega)
  have hi : i.val = 182 := by omega
  obtain rfl : o = .high := hline (by omega) (by omega) (by omega)
  have hlast := (execEvTick_of_unarmed
    (s := { s with slotIndex := i, subTick := j, out := .high, reply := r }) hr).trans (emitterHalf_at9 ha hj)
  rw [if_pos hi] at hlast
  rw [(ticks_add hrun 1).1, ticks_one, hlast, ← hslot, ← hsub]

end

/-- Settles O39: 10 times the slot and the `subTick` is the number of the tick. -/
theorem transmissionIs1830Ticks : Obligations.TransmissionIs1830Ticks := by
  intro s ha hr hslot hsub hfull
  refine ⟨fun n hn => ?_, ticks_of_whole_sending ha hr hslot hsub hfull⟩
  obtain ⟨i, j, o, r, hrun, hpos, -⟩ := ticks_of_sending ha hr hslot hsub hfull n hn
  exact ⟨_, hrun, ha, show i.val = n / 10 by omega, show j.val = n % 10 by omega, rfl⟩

/-- R129: the ticks that the line is low for, over these slots. -/
def lowTime (slots : List PulseCode) : Nat := slots.count .short + 2 * slots.count .long

theorem lowTime_append (l₁ l₂ : List PulseCode) : lowTime (l₁ ++ l₂) = lowTime l₁ + lowTime l₂ := by
  simp only [lowTime, List.count_append]
  omega

/-- R128: the low ticks of one slot; a `None` slot has none if it is entered high. -/
theorem count_low_slotLevels {code : PulseCode} {v : Level} (h : code = .none → v = .high) :
    (slotLevels code v).count .low = lowTime [code] := by
  cases code with
  | none => rw [h rfl]; rfl
  | short => rfl
  | long => rfl

/-- R129: the low ticks of the first k slots of a transmission that does not begin with a `None` slot. -/
theorem count_low_levels {s : State} {slots : List PulseCode} (ha : s.active = true) (hr : s.armed = false)
    (hslot : s.slotIndex = 0) (hsub : s.subTick = 0) (hfull : bufferFull s.buf = true)
    (hread : ∀ k : SlotIndex, s.buf.read k = slots[k.val]?) (hfirst : slots[0]? ≠ some .none) (k : Nat)
    (hk : k ≤ 183) : (levels (10 * k) s).count .low = lowTime (slots.take k) := by
  induction k with
  | zero => rfl
  | succ k ih =>
    obtain ⟨i, j, o, r, hrun, hpos, hline⟩ := ticks_of_sending ha hr hslot hsub hfull (10 * k) (by omega)
    have hi : i.val = k := by omega
    have hj : j = 0 := Fin.ext (show j.val = 0 by omega)
    obtain ⟨code, hcode⟩ := Option.isSome_iff_exists.mp (read_isSome_of_bufferFull hfull i)
    have hget : slots[k]? = some code := by rw [← hi, ← hread, hcode]
    have hentry : code = .none → o = .high := by
      rintro rfl
      have hk0 : k ≠ 0 := by
        rintro rfl
        exact hfirst hget
      exact hline (by omega) (by omega) (by omega)
    have hten := runs_slot (s := { s with slotIndex := i, subTick := j, out := o, reply := r }) ha hr hj hcode
    rw [Nat.mul_succ, (ticks_add hrun 10).2, hten.puts, List.count_append, ih (by omega),
      count_low_slotLevels hentry, List.take_add_one, hget, lowTime_append]
    rfl

/-- Settles O40: a telegram begins with a `Short` slot and fills the buffer. -/
theorem transmissionLowTime : Obligations.TransmissionLowTime := by
  intro s p slots ha hr hslot hsub ht hbuf
  have hlen := telegram_length ht
  have hread : ∀ k : SlotIndex, s.buf.read k = slots[k.val]? := fun k => by
    rw [memWrite_read hbuf k, if_pos ⟨Nat.zero_le _, by omega⟩, Nat.sub_zero]
  have hfirst : slots[0]? ≠ some .none := by
    rw [Ne, (telegramHasFourGaps p slots ht).2 0]
    decide
  have hcount := count_low_levels ha hr hslot hsub (bufferFull_of_memWrite hlen hbuf) hread hfirst 183 le_rfl
  rw [List.take_of_length_le (by omega)] at hcount
  exact hcount

/-- R116: from a waiting state to the end of the transmission. -/
theorem ticks_of_armed {t : State} (h : Inv t) (hr : t.armed = true) :
    (∀ n < t.alignCount.val + 1830, ∃ u : State, ticks n t = .next u ∧ u.busy = true) ∧
    ticks (t.alignCount.val + 1830) t =
      .next { t with alignCount := 0, armed := false, active := false, out := .high, reply := .silent } := by
  have ha : t.active = false := h.notBoth.resolve_left (by rw [hr]; decide)
  obtain ⟨hslot, hsub⟩ := h.idlePosition ha
  obtain ⟨hwait, hstart⟩ := alignmentTakesItsCountOfTicks t hr ha (h.armedCount hr)
  obtain ⟨hsend, hend⟩ := transmissionIs1830Ticks
    { t with alignCount := 0, armed := false, active := true, reply := .silent } rfl rfl hslot hsub
    (h.bufferWritten (.inl hr))
  refine ⟨fun n hn => ?_, (ticks_add hstart 1830).1.trans hend⟩
  rcases Nat.lt_or_ge n t.alignCount.val with hlt | hge
  · obtain ⟨u, hu, hur, -⟩ := hwait n hlt
    exact ⟨u, hu, by rw [State.busy, hur, Bool.true_or]⟩
  · obtain ⟨m, rfl⟩ := Nat.exists_eq_add_of_le hge
    obtain ⟨u, hu, hua, -⟩ := hsend m (by omega)
    exact ⟨u, (ticks_add hstart m).1.trans hu, by rw [State.busy, hua, Bool.or_true]⟩

/-- Settles O57: the POLL leads to a waiting state with a count of ten ticks per second. -/
theorem wholeCycle : Obligations.WholeCycle := by
  intro s now h hi hk hin
  have htel := telegram_of_inRange hin
  obtain ⟨buf, hbuf⟩ := memWrite_telegram htel s.buf
  have hpoll := (execEvPoll_eq_pollCompose hi hk).trans (execPollCompose_of_telegram_ok hi hk htel hbuf)
  exact ⟨_, hpoll, ticks_of_armed (execEvPoll_keeps_inv h hpoll) rfl⟩

end Sys2Proof.Machine
end
